-- ==== Sys2Proof/Word.lean ====
section
/-!
DEFINITION. The words of the chafa CORE (spec 00_scope.md R7, R8): plain bit vectors, bit 0 the least
significant.
-/

namespace Sys2Proof

/-- A host word, a register and a command word: `WORD_W` = 32 bits (R7). -/
abbrev Word := BitVec 32

/-- One byte, one channel of a Color: `CH_W` = 8 bits (R6). -/
abbrev Byte := BitVec 8

/-- A host byte address: `ADDR_W` = 12 bits (R7). -/
abbrev Addr := BitVec 12

/-- A packed Coverage Mask: `MASK_W` = 64 bits, bit i for pixel i (R6, R31). -/
abbrev Mask64 := BitVec 64

end Sys2Proof
end

