-- ==== Sys2Proof/Config.lean ====
section
/-!
DEFINITION. What an implementation of the CORE fixes (spec 00_scope.md R6, R7) and the one free value
(93_implementation_defined.md U1).
-/

namespace Sys2Proof

/-- `PAL_DEPTH` = 256, the value R7 gives this hardware (10_state.md R38; log entry 7). -/
def Config.palDepth : Nat := 256

/-- The identification word, read at address 0x000 (R2, R23). -/
def Config.idWord : Word := 0x43480100#32

/-- FREE VALUE: what the byte of `PIX` or `PAL` at a byte address holds when no transaction has
written it since the latest reset (10_state.md R41, 70_reset_and_hazards.md R188, U1: `any value`,
the same at every read until the next reset).  The first argument is the number of the reset
(`State.epoch`), the second the byte address.  It has no body: no proof can see it.  Log entry 4. -/
opaque Config.unwrittenByte : Nat → Nat → Byte

theorem Config.palDepth_eq : Config.palDepth = 256 := rfl

end Sys2Proof
end

