-- ==== Sys2Proof/Syntax.lean ====
section
/-!
DEFINITION. The command set of the CORE: one constructor per row of spec/opcode_table.json
(30_encoding.md R73), with its operands (R72).
-/

namespace Sys2Proof

/-- The mask a SCORE or EXTRACT uses, field `msel` (R72). -/
inductive MaskSel where
  /-- `msel` = 0: the host-written `MASK`; written `m` in the host notation (R78). -/
  | mask
  /-- `msel` = 1: the Synthesizer's `BITMAP`; written `b`. -/
  | bitmap
deriving DecidableEq, Repr

/-- An accumulator, field `acc` of DIVIDE (R72; 10_state.md R36). -/
inductive AccSel where
  /-- `acc` = 0: `ACC0`, the background group. -/
  | acc0
  /-- `acc` = 1: `ACC1`, the foreground group. -/
  | acc1
deriving DecidableEq, Repr

/-- The five operations (R73). -/
inductive Instr where
  /-- SCORE, op 0x01 (40_score.md R90). -/
  | score (m : MaskSel)
  /-- SYNTH, op 0x02 (41_synth.md R100). -/
  | synth
  /-- EXTRACT, op 0x03 (42_extract.md R110). -/
  | extract (m : MaskSel)
  /-- DIVIDE, op 0x04, of the accumulator `g` by the immediate `d` (43_divide.md R120). -/
  | divide (g : AccSel) (d : Nat)
  /-- MATCH, op 0x05 (44_match.md R140). -/
  | matchPalette
deriving DecidableEq, Repr

end Sys2Proof
end

