-- ==== Sys2Proof/WellFormed.lean ====
section
/-!
DEFINITION. Which commands have an encoding (spec 30_encoding.md R71, R72).
-/

namespace Sys2Proof

/-- A command is well formed when a word encodes it: the only operand with a bound is DIVIDE's
divisor, the 9-bit unsigned field `imm9`, 0 to 511 (R72).  257 to 511 are well formed: they decode as
DIVIDE and then raise DIV_RANGE. -/
def Instr.wf : Instr → Bool
  | .score _ => true
  | .synth => true
  | .extract _ => true
  | .divide _ d => decide (d < 512)
  | .matchPalette => true

end Sys2Proof
end

