-- ==== Sys2Proof/Decode.lean ====
section
/-!
DEFINITION. Format C (spec 30_encoding.md R70 to R77): the fields of a command word, the total decoder
of R74, and the encoder written from the same tables (R73).
-/

namespace Sys2Proof

/-- `op` = w[7:0] (R71). -/
def opField (w : Word) : Nat := (w.extractLsb' 0 8).toNat

/-- `sel` = w[8] (R71). -/
def selField (w : Word) : Bool := w.getLsbD 8

/-- `rsv0` = w[15:9] (R71). -/
def rsv0Field (w : Word) : Nat := (w.extractLsb' 9 7).toNat

/-- `imm9` = w[24:16], unsigned, not scaled (R71, R72). -/
def immField (w : Word) : Nat := (w.extractLsb' 16 9).toNat

/-- `rsv1` = w[31:25] (R71). -/
def rsv1Field (w : Word) : Nat := (w.extractLsb' 25 7).toNat

/-- Why a word is no legal encoding (R75).  Each of them is raised as ILLEGAL_CMD. -/
inductive DecodeReject where
  /-- `rsv0 != 0` or `rsv1 != 0`. -/
  | reservedBits
  /-- `imm9 != 0` where it must be 0. -/
  | unusedImm
  /-- `sel != 0` where it must be 0. -/
  | unusedSel
  /-- `op` is 0x00 or in 0x06..0xFF. -/
  | unassignedOp
deriving DecidableEq, Repr

/-- `msel` (R72). -/
def maskSelOf (b : Bool) : MaskSel := if b then .bitmap else .mask

/-- `acc` (R72). -/
def accSelOf (b : Bool) : AccSel := if b then .acc1 else .acc0

/-- The decoder of R74, in its order: reserved bits first, then the opcode, then the operation's own
unused fields. -/
def decode (w : Word) : Except DecodeReject Instr :=
  if rsv0Field w ≠ 0 ∨ rsv1Field w ≠ 0 then .error .reservedBits
  else if opField w = 1 then
    if immField w ≠ 0 then .error .unusedImm else .ok (.score (maskSelOf (selField w)))
  else if opField w = 2 then
    if selField w then .error .unusedSel else if immField w ≠ 0 then .error .unusedImm else .ok .synth
  else if opField w = 3 then
    if immField w ≠ 0 then .error .unusedImm else .ok (.extract (maskSelOf (selField w)))
  else if opField w = 4 then .ok (.divide (accSelOf (selField w)) (immField w))
  else if opField w = 5 then
    if selField w then .error .unusedSel
    else if immField w ≠ 0 then .error .unusedImm else .ok .matchPalette
  else .error .unassignedOp

/-- The bit of `msel` (R72). -/
def maskSelBit : MaskSel → Nat
  | .mask => 0
  | .bitmap => 1

/-- The bit of `acc` (R72). -/
def accSelBit : AccSel → Nat
  | .acc0 => 0
  | .acc1 => 1

/-- A word of format C with both reserved fields 0 (R71, R73): op + 0x100 sel + 0x10000 imm9. -/
def formatC (op sel imm : Nat) : Word := BitVec.ofNat 32 (op + 0x100 * sel + 0x10000 * (imm % 512))

/-- The command word of an operation (R73, column by column). -/
def encode : Instr → Word
  | .score m => formatC 1 (maskSelBit m) 0
  | .synth => formatC 2 0 0
  | .extract m => formatC 3 (maskSelBit m) 0
  | .divide g d => formatC 4 (accSelBit g) d
  | .matchPalette => formatC 5 0 0

/-- The instruction the decoder reads from a table row's word: a command is one 32-bit word (R70), so
the bits above `nbits` are 0. -/
def decodeTableWord (nbits w : Nat) : Option Instr :=
  match decode (BitVec.ofNat 32 (w % 2 ^ nbits)) with
  | .ok i => some i
  | .error _ => none

/-- SCORE with `MASK`: opcode 0x01, every other bit 0 (R73). -/
theorem decode_score_mask : decode 0x00000001#32 = .ok (.score .mask) := by decide

/-- SCORE with `BITMAP`: bit 8 set (R73). -/
theorem decode_score_bitmap : decode 0x00000101#32 = .ok (.score .bitmap) := by decide

/-- SYNTH: opcode 0x02 (R73). -/
theorem decode_synth : decode 0x00000002#32 = .ok .synth := by decide

/-- EXTRACT: opcode 0x03 (R73). -/
theorem decode_extract_mask : decode 0x00000003#32 = .ok (.extract .mask) := by decide

/-- EXTRACT with `BITMAP`: bit 8 set (R73). -/
theorem decode_extract_bitmap : decode 0x00000103#32 = .ok (.extract .bitmap) := by decide

/-- DIVIDE ACC1 by 64: 0x00000004 + 0x100 + 0x10000 * 64 (R120). -/
theorem decode_divide_acc1_64 : decode 0x00400104#32 = .ok (.divide .acc1 64) := by decide

/-- MATCH: opcode 0x05 (R73). -/
theorem decode_match : decode 0x00000005#32 = .ok .matchPalette := by decide

end Sys2Proof
end

