-- ==== Sys2Proof/Machine/State.lean ====
section
/-!
DEFINITION. The machine's state as plain data: everything spec 10_state.md R20 lists, and beside it, in
a part of its own, the host's side of the port (R22: a model keeps the position in the host's list
outside the CORE's state).  `ID`, `RECIP` and `CMD` hold nothing that changes (R20, R181) and are
constants of the model.
-/

namespace Sys2Proof.Machine

/-- A Color Accumulator: four 32-bit two's-complement channels R, G, B, A (10_state.md R36). -/
structure Acc where
  r : Word
  g : Word
  b : Word
  a : Word
deriving DecidableEq, Repr

/-- The two arrays of the register space, `PIX` at 0x100 and `PAL` at 0x400, as the bytes written
since the latest reset (20_memory.md R50: the addressable unit is the byte).  Canonical form:
`Memory.wf`. -/
abbrev Memory := List Host.Cell

/-- The one canonical form: addresses strictly rising.  An unlisted address holds no listed value (it
reads as the free value, `byteAt` in Ops.lean; log entries 4 and 6), so no entry can equal what an
unlisted address reads as. -/
abbrev Memory.wf (m : Memory) : Prop := m.Pairwise fun x y => x.1 < y.1

/-- What may happen at the port: a reset event (70_reset_and_hazards.md R180) or one of the two host
transactions (20_memory.md R52, R53). -/
inductive HostEvent where
  /-- `rst`: the reset event, between two transactions (R180, R187). -/
  | reset
  /-- `HostRead(addr)` (R52). -/
  | read (addr : Addr)
  /-- `HostWrite(addr, data)` (R53). -/
  | write (addr : Addr) (data : Word)
deriving DecidableEq, Repr

/-- The host's side of the port, outside the CORE's state (R22; log entry 1). -/
structure HostSide where
  /-- The host's events still to be performed, in order (R60, R186). -/
  script : List HostEvent
  /-- The words its reads have returned (`rsp_rdata`, R66), the latest first. -/
  answers : List Word
deriving DecidableEq, Repr

/-- The state: one CORE instance (R20) and the host's side. -/
structure State where
  /-- `STATUS.FAULT` (R25), the only implemented bit of `STATUS`. -/
  fault : Bool
  /-- `CAUSE.CODE` (R26), the four implemented bits of `CAUSE`. -/
  cause : BitVec 4
  /-- `FINFO` (R27). -/
  finfo : Word
  /-- `FG` (R28). -/
  fg : Word
  /-- `BG` (R28). -/
  bg : Word
  /-- `TARGET` (R29). -/
  target : Word
  /-- `PAL_LEN` (R30). -/
  palLen : Word
  /-- `MASK` (R31), also seen through `MASKB` (R32). -/
  mask : Mask64
  /-- `BITMAP` (R33). -/
  bitmap : Mask64
  /-- `SCORE` (R34). -/
  score : Word
  /-- `INDEX` (R35). -/
  index : Word
  /-- `ACC0`, the background group (R36). -/
  acc0 : Acc
  /-- `ACC1`, the foreground group (R36). -/
  acc1 : Acc
  /-- `PIX[0..63]` and `PAL[0..255]` (R37, R38). -/
  mem : Memory
  /-- MODEL's own: how many reset events there have been since the reset the run began with, so that
  each reset leaves the arrays with new free values (R188, U1; log entry 5). -/
  epoch : Nat
  /-- The host's side. -/
  host : HostSide
deriving DecidableEq, Repr

/-- Reasons for which the machine stops with no next state: NONE.  The spec's own faults (R150) are
states the CORE goes on from (R155), so their entry is a next state (`raiseFault` in Ops.lean); nothing
in the spec leaves a transaction without a next state (R15, R184).  Log entry 10. -/
inductive Fault
deriving DecidableEq, Repr

/-- Reasons for which the model gives no meaning. -/
inductive Refusal where
  /-- Raised by an arm of `exec` whose instruction has no meaning yet; no arm does so.  Safe. -/
  | notModelled (mnemonic : String)
deriving DecidableEq, Repr

/-- An accumulator with every channel 0. -/
def Acc.zero : Acc := ⟨0#32, 0#32, 0#32, 0#32⟩

/-- The state right after the reset a run begins with (R41, R180): every scalar register 0, nothing
listed in the arrays.  The model's own fields `epoch` and `host` start at 0 and empty (log entries 1,
3 and 5). -/
def State.reset : State where
  fault := false
  cause := 0#4
  finfo := 0#32
  fg := 0#32
  bg := 0#32
  target := 0#32
  palLen := 0#32
  mask := 0#64
  bitmap := 0#64
  score := 0#32
  index := 0#32
  acc0 := Acc.zero
  acc1 := Acc.zero
  mem := []
  epoch := 0
  host := ⟨[], []⟩

end Sys2Proof.Machine
end

