-- ==== Sys2Proof/Machine/Flags.lean ====
section
/-!
DEFINITION. The status registers as the host sees them and the cause codes (spec 10_state.md R25, R26;
60_exceptions.md R151, R157).  `STATUS.FAULT` is the only flag of the CORE: no operation sets a
condition code.
-/

namespace Sys2Proof.Machine

/-- The eight causes of a fault (R151). -/
inductive Cause where
  /-- The command word is no legal encoding (R75). -/
  | illegalCmd
  /-- DIVIDE's divisor is in 257..511 (R120). -/
  | divRange
  /-- MATCH with `PAL_LEN` = 0 (R140). -/
  | palEmpty
  /-- MATCH with `PAL_LEN` > `PAL_DEPTH` (R140). -/
  | palRange
  /-- A byte lane written to `MASKB` is neither 0x00 nor 0xFF (R32). -/
  | maskForm
  /-- A read or a write of an unmapped location (R58). -/
  | busUnmapped
  /-- A read or a write at an address that is no multiple of 4 (R56). -/
  | busMisaligned
  /-- A write of a read-only location (R59). -/
  | busReadonly
deriving DecidableEq, Repr

/-- `CAUSE.CODE` of a cause (R151); 0 is "no fault since reset", 9 to 15 are never produced. -/
def causeCode : Cause → BitVec 4
  | .illegalCmd => 1#4
  | .divRange => 2#4
  | .palEmpty => 3#4
  | .palRange => 4#4
  | .maskForm => 5#4
  | .busUnmapped => 6#4
  | .busMisaligned => 7#4
  | .busReadonly => 8#4

/-- What a read of `STATUS` gives: `FAULT` in bit 0, bits [31:1] read as 0 (R25). -/
def statusWord (s : State) : Word := (BitVec.ofBool s.fault).setWidth 32

/-- What a read of `CAUSE` gives: `CODE` in bits [3:0], bits [31:4] read as 0 (R26). -/
def causeWord (s : State) : Word := s.cause.setWidth 32

/-- The output pin `fault_o`, equal to `STATUS.FAULT` at all times (R66, R157). -/
def faultPin (s : State) : Bool := s.fault

end Sys2Proof.Machine
end

