-- ==== Sys2Proof/Machine/Ops.lean ====
section
/-!
DEFINITION. The named operations over the arrays and the registers, fault entry as one shared operation
and beside it the one way out of the faulted state, the reset event (spec 60_exceptions.md R154, R160;
70_reset_and_hazards.md R180).
-/

namespace Sys2Proof.Machine

/-! ### The arrays' bytes -/

/-- The byte listed at an address; an address nothing has written since the latest reset lists none. -/
def Memory.read? : Memory → Nat → Option Byte
  | [], _ => none
  | (b, v) :: m, a => if b = a then some v else Memory.read? m a

/-- Write one byte, keeping the addresses strictly rising. -/
def Memory.write : Memory → Nat → Byte → Memory
  | [], a, v => [(a, v)]
  | (b, u) :: m, a, v =>
    if a < b then (a, v) :: (b, u) :: m
    else if a = b then (a, v) :: m
    else (b, u) :: Memory.write m a v

/-- One byte of an aligned word: bits [8k+7:8k], at the word's address + k (20_memory.md R54). -/
def wordByte (w : Word) (k : Nat) : Byte := w.extractLsb' (8 * k) 8

/-- Store all four bytes of a word (R53, R54). -/
def Memory.writeWord (m : Memory) (a : Nat) (w : Word) : Memory :=
  (((m.write a (wordByte w 0)).write (a + 1) (wordByte w 1)).write (a + 2) (wordByte w 2)).write
    (a + 3) (wordByte w 3)

/-- One byte of the arrays: the byte written last, or, where none has been written since the latest
reset, the free value (R41, R188, U1; log entry 4). -/
def byteAt (s : State) (a : Nat) : Byte :=
  (s.mem.read? a).getD (Config.unwrittenByte s.epoch a)

/-- The word of the arrays at a byte address, low byte first (R54). -/
def wordAt (s : State) (a : Nat) : Word :=
  byteAt s (a + 3) ++ byteAt s (a + 2) ++ byteAt s (a + 1) ++ byteAt s a

/-- The byte address of `PIX[i]` (10_state.md R37). -/
def pixAddr (i : Nat) : Nat := 0x100 + 4 * i

/-- The byte address of `PAL[j]` (10_state.md R38). -/
def palAddr (j : Nat) : Nat := 0x400 + 4 * j

/-- `PIX[i]` (R37), i in 0..63 (a greater i: log entry 19). -/
def pix (s : State) (i : Nat) : Word := wordAt s (pixAddr i)

/-- `PAL[j]` (R38), j in 0..255 (a greater j: log entry 19). -/
def pal (s : State) (j : Nat) : Word := wordAt s (palAddr j)

/-! ### Register writes: each stores the whole value and nothing else (R53) -/

/-- `FG <- v`. -/
def State.setFg (s : State) (v : Word) : State := { s with fg := v }

/-- `BG <- v`. -/
def State.setBg (s : State) (v : Word) : State := { s with bg := v }

/-- `TARGET <- v`. -/
def State.setTarget (s : State) (v : Word) : State := { s with target := v }

/-- `PAL_LEN <- v`, unclamped (R30). -/
def State.setPalLen (s : State) (v : Word) : State := { s with palLen := v }

/-- `MASK <- v`. -/
def State.setMask (s : State) (v : Mask64) : State := { s with mask := v }

/-- `BITMAP <- v`. -/
def State.setBitmap (s : State) (v : Mask64) : State := { s with bitmap := v }

/-- `SCORE <- v`. -/
def State.setScore (s : State) (v : Word) : State := { s with score := v }

/-- `INDEX <- v`. -/
def State.setIndex (s : State) (v : Word) : State := { s with index := v }

/-- `ACC0 <- v`, all four channels. -/
def State.setAcc0 (s : State) (v : Acc) : State := { s with acc0 := v }

/-- `ACC1 <- v`, all four channels. -/
def State.setAcc1 (s : State) (v : Acc) : State := { s with acc1 := v }

/-- Store a word of `PIX` or `PAL`. -/
def State.storeWord (s : State) (a : Nat) (w : Word) : State :=
  { s with mem := s.mem.writeWord a w }

/-! ### Faults -/

/-- Fault entry (R154): `STATUS.FAULT`, `CAUSE.CODE` and `FINFO` are written and nothing else
changes. -/
def enterFault (c : Cause) (info : Word) (s : State) : State :=
  { s with fault := true, cause := causeCode c, finfo := info }

/-- `raise Fault(cause, info)`: the fault is entered when `STATUS.FAULT` is 0 (R154); a CORE that has
already faulted records nothing more (R155). -/
def raiseFault (c : Cause) (info : Word) (s : State) : State :=
  if s.fault then s else enterFault c info s

/-- The reset event (R180, R41), the only way out of the faulted state (R160): every scalar register at
its reset value, the arrays unspecified again, so the next free values (R188).  The host's side is not
the CORE's and stays (log entry 11). -/
def resetEvent (s : State) : State :=
  { State.reset with epoch := s.epoch + 1, host := s.host }

/-! ### The host's side -/

/-- The host's list without the event being performed. -/
def State.setScript (s : State) (es : List HostEvent) : State :=
  { s with host := { s.host with script := es } }

/-- The host receives the word its read returned (`rsp_rdata`, R66). -/
def State.answer (s : State) (w : Word) : State :=
  { s with host := { s.host with answers := w :: s.host.answers } }

end Sys2Proof.Machine
end

