-- ==== Sys2Proof/Machine/Address.lean ====
section
/-!
DEFINITION. The address map of the register space (spec 20_memory.md R50, R51, R58, R59).
-/

namespace Sys2Proof.Machine

/-- The access attribute of a mapped location (R51). -/
inductive Access where
  /-- RO: a write raises BUS_READONLY (R59). -/
  | readOnly
  /-- WO: `CMD`; a read gives 0 (R59). -/
  | writeOnly
  /-- RW. -/
  | readWrite
deriving DecidableEq, Repr

/-- The mapped word locations, one constructor per row of R51. -/
inductive Loc where
  | id
  | cmd
  | status
  | cause
  | finfo
  | fg
  | bg
  | target
  | palLen
  | maskLo
  | maskHi
  | bitmapLo
  | bitmapHi
  | score
  | index
  /-- `ACCg_R`, `ACCg_G`, `ACCg_B`, `ACCg_A` for k = 0, 1, 2, 3. -/
  | acc (g : AccSel) (k : Fin 4)
  /-- `MASKB[w]`. -/
  | maskB (w : Fin 16)
  /-- `PIX[i]`. -/
  | pix (i : Fin 64)
  /-- `PAL[j]`. -/
  | pal (j : Fin Config.palDepth)
  /-- `RECIP[d]`. -/
  | recip (d : Fin 257)
deriving DecidableEq, Repr

/-- The byte address of a location (R51). -/
def locAddrNat : Loc → Nat
  | .id => 0x000
  | .cmd => 0x004
  | .status => 0x008
  | .cause => 0x00C
  | .finfo => 0x010
  | .fg => 0x014
  | .bg => 0x018
  | .target => 0x01C
  | .palLen => 0x020
  | .maskLo => 0x028
  | .maskHi => 0x02C
  | .bitmapLo => 0x030
  | .bitmapHi => 0x034
  | .score => 0x038
  | .index => 0x03C
  | .acc .acc0 k => 0x040 + 4 * k.val
  | .acc .acc1 k => 0x050 + 4 * k.val
  | .maskB w => 0x080 + 4 * w.val
  | .pix i => pixAddr i.val
  | .pal j => palAddr j.val
  | .recip d => 0x800 + 4 * d.val

/-- The 12-bit byte address of a location (R51). -/
def locAddr (l : Loc) : Addr := BitVec.ofNat 12 (locAddrNat l)

/-- The access attribute of a location (R51). -/
def locAccess : Loc → Access
  | .id => .readOnly
  | .cmd => .writeOnly
  | .status => .readOnly
  | .cause => .readOnly
  | .finfo => .readOnly
  | .fg => .readWrite
  | .bg => .readWrite
  | .target => .readWrite
  | .palLen => .readWrite
  | .maskLo => .readWrite
  | .maskHi => .readWrite
  | .bitmapLo => .readOnly
  | .bitmapHi => .readOnly
  | .score => .readOnly
  | .index => .readOnly
  | .acc _ _ => .readWrite
  | .maskB _ => .readWrite
  | .pix _ => .readWrite
  | .pal _ => .readWrite
  | .recip _ => .readOnly

/-- Whether an address is a multiple of 4 (R56). -/
def aligned (a : Addr) : Bool := a.toNat % 4 == 0

/-- The scalar rows of the map, 0x000 to 0x03C, in order (R51). -/
def scalarLocs : List Loc :=
  [.id, .cmd, .status, .cause, .finfo, .fg, .bg, .target, .palLen, .maskLo, .maskHi, .bitmapLo,
    .bitmapHi, .score, .index]

/-- The scalar location at an address; 0x024 has none (R51, R58). -/
def locateScalar (n : Nat) : Option Loc := scalarLocs.find? fun l => locAddrNat l == n

/-- The mapped location that holds a byte address, none for the unmapped ones; `n` is the address of
an aligned word (R51, R58). -/
def locateNat (n : Nat) : Option Loc :=
  if n < 0x040 then locateScalar n
  else if h : 0x040 ≤ n ∧ n < 0x050 then some (.acc .acc0 ⟨(n - 0x040) / 4, by omega⟩)
  else if h : 0x050 ≤ n ∧ n < 0x060 then some (.acc .acc1 ⟨(n - 0x050) / 4, by omega⟩)
  else if h : 0x080 ≤ n ∧ n < 0x0C0 then some (.maskB ⟨(n - 0x080) / 4, by omega⟩)
  else if h : 0x100 ≤ n ∧ n < 0x200 then some (.pix ⟨(n - 0x100) / 4, by omega⟩)
  else if h : 0x400 ≤ n ∧ n < 0x400 + 4 * Config.palDepth then
    some (.pal ⟨(n - 0x400) / 4, by omega⟩)
  else if h : 0x800 ≤ n ∧ n < 0xC04 then some (.recip ⟨(n - 0x800) / 4, by omega⟩)
  else none

/-- The location at an aligned address (R51); none where it is unmapped. -/
def locate (a : Addr) : Option Loc := locateNat a.toNat

end Sys2Proof.Machine
end

