-- ==== Sys2Proof/Machine/Operands.lean ====
section
/-!
DEFINITION. The operands of the five operations: channels, distances, masks in both representations,
accumulator channels and the Reciprocal Table (spec 00_scope.md R9 to R13; 10_state.md R31, R32, R36,
R39, R43; 30_encoding.md R72).  All arithmetic is on exact integers (R9, R132).
-/

namespace Sys2Proof.Machine

/-! ### Colors -/

/-- `ch(w, k)` = w[8k+7:8k]: R, G, B, A for k = 0, 1, 2, 3 (R11). -/
def ch (w : Word) (k : Nat) : Nat := (w.extractLsb' (8 * k) 8).toNat

/-- `color(r, g, b, a)` (20_memory.md R54). -/
def color (r g b a : Byte) : Word := a ++ b ++ g ++ r

/-- `absdiff(a, b)` = |a − b|, a true absolute difference without wraparound (R12). -/
def absdiff (a b : Nat) : Nat := ((a : Int) - (b : Int)).natAbs

/-- Squared RGB distance; channel 3 does not enter (R13). -/
def dist3 (x y : Word) : Nat :=
  absdiff (ch x 0) (ch y 0) ^ 2 + absdiff (ch x 1) (ch y 1) ^ 2 + absdiff (ch x 2) (ch y 2) ^ 2

/-- A sum over the 64 pixels of the block, in index order (R14, R37). -/
def pixelSum (f : Nat → Nat) : Nat := ((List.range 64).map f).sum

/-! ### Masks -/

/-- The mask an operation uses: `MASK` if `msel` = 0, `BITMAP` if `msel` = 1 (R72). -/
def maskOf (m : MaskSel) (s : State) : Mask64 :=
  match m with
  | .mask => s.mask
  | .bitmap => s.bitmap

/-- The n-bit word whose bit i, of weight 2^i, is `f i` (R8, R31). -/
def packBits : (n : Nat) → (Nat → Bool) → BitVec n
  | 0, _ => 0#0
  | n + 1, f => BitVec.cons (f n) (packBits n f)

/-- The byte lane of one mask bit: 0xFF or 0x00 (R32, R43). -/
def laneByte (b : Bool) : Byte := if b then 0xFF#8 else 0x00#8

/-- `unpack(m)[i]` (R43). -/
def unpackLane (m : Mask64) (i : Nat) : Byte := laneByte (m.getLsbD i)

/-- `pack(L)` of the lanes L[0..63] (R43).  On a lane that is neither 0x00 nor 0xFF, where R43 does
not define `pack`, the bit is 0: DESIGN CHOICE (log entry 18). -/
def packLanes (lanes : Nat → Byte) : Mask64 := packBits 64 fun i => lanes i == 0xFF#8

/-- Whether a byte is a well-formed lane (R43). -/
def laneOk (b : Byte) : Bool := b == 0x00#8 || b == 0xFF#8

/-- What a read of `MASKB[w]` gives: the lanes of pixels 4w to 4w+3, pixel 4w+k in bits [8k+7:8k]
(R32). -/
def maskBWord (m : Mask64) (w : Nat) : Word :=
  unpackLane m (4 * w + 3) ++ unpackLane m (4 * w + 2) ++ unpackLane m (4 * w + 1) ++
    unpackLane m (4 * w)

/-- Whether every lane of data written to `MASKB` is well formed (R32). -/
def maskBDataOk (v : Word) : Bool :=
  laneOk (wordByte v 0) && laneOk (wordByte v 1) && laneOk (wordByte v 2) && laneOk (wordByte v 3)

/-- The mask after a well-formed write of `MASKB[w]`: its four bits come from the lanes, the other 60
keep their value (R32). -/
def maskBWrite (m : Mask64) (w : Nat) (v : Word) : Mask64 :=
  packBits 64 fun p => if p / 4 = w then wordByte v (p % 4) == 0xFF#8 else m.getLsbD p

/-- The `_LO` word of a 64-bit register: bits [31:0] (20_memory.md R55). -/
def loWord (m : Mask64) : Word := m.extractLsb' 0 32

/-- The `_HI` word: bits [63:32] (R55). -/
def hiWord (m : Mask64) : Word := m.extractLsb' 32 32

/-- A 64-bit register from its two words (R55). -/
def joinWords (hi lo : Word) : Mask64 := hi ++ lo

/-! ### Accumulators -/

/-- `ACC[g]` (R36). -/
def accOf (g : AccSel) (s : State) : Acc :=
  match g with
  | .acc0 => s.acc0
  | .acc1 => s.acc1

/-- `ACC[g] <- v`, all four channels. -/
def setAccOf (g : AccSel) (v : Acc) (s : State) : State :=
  match g with
  | .acc0 => s.setAcc0 v
  | .acc1 => s.setAcc1 v

/-- Channel k of an accumulator as its stored word: R, G, B, A for k = 0, 1, 2, 3 (R36). -/
def accChan (v : Acc) (k : Fin 4) : Word :=
  match k with
  | 0 => v.r
  | 1 => v.g
  | 2 => v.b
  | 3 => v.a

/-- An accumulator with one channel replaced. -/
def accSetChan (v : Acc) (k : Fin 4) (w : Word) : Acc :=
  match k with
  | 0 => { v with r := w }
  | 1 => { v with g := w }
  | 2 => { v with b := w }
  | 3 => { v with a := w }

/-- The accumulator whose channel k is `f k`. -/
def accOfChans (f : Fin 4 → Word) : Acc := ⟨f 0, f 1, f 2, f 3⟩

/-! ### The Reciprocal Table -/

/-- `RECIP[d]`: 0 for d = 0, floor(32768 / d) for d in 1..256 (43_divide.md R121, R122; log entry 8).
Above 256, where there is no entry, the formula goes on: DESIGN CHOICE (log entry 19). -/
def recip (d : Nat) : Nat := if d = 0 then 0 else 32768 / d

end Sys2Proof.Machine
end

