-- ==== Sys2Proof/Machine/Divide.lean ====
section
/-!
DEFINITION. DIVIDE, the Fixed-point Divider (spec 43_divide.md).
-/

namespace Sys2Proof.Machine

/-- One channel's quotient, on exact integers: floor((s t + 16384) / 32768), the shift arithmetic
(R120). -/
def divQuot (t : Nat) (s : Int) : Int := (s * t + 16384) >>> (15 : Nat)

/-- One channel through the Divider, as stored words; the quotient fits 32 bits signed (R123). -/
def divChan (t : Nat) (w : Word) : Word := BitVec.ofInt 32 (divQuot t w.toInt)

/-- DIVIDE (R120): a divisor above 256 raises DIV_RANGE with the command word before anything is
read; otherwise the four channels of the selected accumulator are replaced in place. -/
def execDivide (g : AccSel) (d : Nat) (s : State) : Host.Outcome State Fault Refusal :=
  if d > 256 then .next (raiseFault .divRange (encode (.divide g d)) s)
  else .next (setAccOf g (accOfChans fun k => divChan (recip d) (accChan (accOf g s) k)) s)

end Sys2Proof.Machine
end

