-- ==== Sys2Proof/Machine/Extract.lean ====
section
/-!
DEFINITION. EXTRACT, the Mean Color Extractor (spec 42_extract.md).
-/

namespace Sys2Proof.Machine

/-- The sum of channel k over the pixels whose mask bit is `b` (R110). -/
def groupSum (m : Mask64) (b : Bool) (s : State) (k : Fin 4) : Nat :=
  pixelSum fun i => if m.getLsbD i = b then ch (pix s i) k else 0

/-- The accumulator of one group: all four channels, alpha included (R110). -/
def groupAcc (m : Mask64) (b : Bool) (s : State) : Acc :=
  accOfChans fun k => BitVec.ofNat 32 (groupSum m b s k)

/-- EXTRACT (R110): `ACC0` gets the background sums, `ACC1` the foreground sums; the previous values
are discarded. -/
def execExtract (m : MaskSel) (s : State) : Host.Outcome State Fault Refusal :=
  .next ((s.setAcc0 (groupAcc (maskOf m s) false s)).setAcc1 (groupAcc (maskOf m s) true s))

end Sys2Proof.Machine
end

