-- ==== Sys2Proof/Machine/Match.lean ====
section
/-!
DEFINITION. MATCH, the Palette Matcher (spec 44_match.md).
-/

namespace Sys2Proof.Machine

/-- The loop of R140: `k` entries from index `j` on, with the best index so far and its distance; only
a strictly smaller distance replaces. -/
def scanNearest (dist : Nat → Nat) : (k j best bestd : Nat) → Nat
  | 0, _, best, _ => best
  | k + 1, j, best, bestd =>
    if dist j < bestd then scanNearest dist k (j + 1) j (dist j)
    else scanNearest dist k (j + 1) best bestd

/-- The lowest index in 0..n-1 with the smallest distance, n at least 1 (R140; with n = 0, which MATCH
never asks for, it is 0: log entry 19). -/
def nearest (dist : Nat → Nat) (n : Nat) : Nat := scanNearest dist (n - 1) 1 0 (dist 0)

/-- The distance of `TARGET` to `PAL[j]` (R140). -/
def targetDist (s : State) (j : Nat) : Nat := dist3 s.target (pal s j)

/-- MATCH (R140): an empty or a too long palette raises a fault from `PAL_LEN` alone; otherwise
`INDEX` gets the index of the nearest entry, the lowest of equal ones. -/
def execMatch (s : State) : Host.Outcome State Fault Refusal :=
  if s.palLen.toNat = 0 then .next (raiseFault .palEmpty (encode .matchPalette) s)
  else if s.palLen.toNat > Config.palDepth then
    .next (raiseFault .palRange (encode .matchPalette) s)
  else .next (s.setIndex (BitVec.ofNat 32 (nearest (targetDist s) s.palLen.toNat)))

end Sys2Proof.Machine
end

