-- ==== Sys2Proof/Machine/Score.lean ====
section
/-!
DEFINITION. SCORE, the Cell Error Scorer (spec 40_score.md).
-/

namespace Sys2Proof.Machine

/-- The endpoint of pixel i under a mask: `FG` where its bit is 1, else `BG` (R90). -/
def selColor (m : Mask64) (s : State) (i : Nat) : Word := if m.getLsbD i then s.fg else s.bg

/-- The score of a mask over the loaded block and pair: the sum over the 64 pixels of the squared RGB
distance to the selected endpoint (R90, R94). -/
def scoreTotal (m : Mask64) (s : State) : Nat := pixelSum fun i => dist3 (selColor m s i) (pix s i)

/-- SCORE (R90): `SCORE <- zext_32(total)`; the total is below 2^24 (R91). -/
def execScore (m : MaskSel) (s : State) : Host.Outcome State Fault Refusal :=
  .next (s.setScore (BitVec.ofNat 32 (scoreTotal (maskOf m s) s)))

end Sys2Proof.Machine
end

