-- ==== Sys2Proof/Machine/Synth.lean ====
section
/-!
DEFINITION. SYNTH, the Bitmap Synthesizer (spec 41_synth.md).
-/

namespace Sys2Proof.Machine

/-- Bit i of the bitmap: 1 when pixel i is strictly nearer to `FG` than to `BG`; a tie gives 0 (R100,
R102). -/
def synthBit (s : State) (i : Nat) : Bool := decide (dist3 (pix s i) s.bg > dist3 (pix s i) s.fg)

/-- SYNTH (R100): `BITMAP` gets bit i = b[i], of weight 2^i (R103). -/
def execSynth (s : State) : Host.Outcome State Fault Refusal :=
  .next (s.setBitmap (packBits 64 (synthBit s)))

end Sys2Proof.Machine
end

