-- ==== Sys2Proof/Machine/Dispatch.lean ====
section
/-!
DEFINITION. One arm per operation (spec 30_encoding.md R73, R74).
-/

namespace Sys2Proof.Machine

def exec (i : Instr) (s : State) : Host.Outcome State Fault Refusal :=
  match i with
  | .score m => Sys2Proof.Machine.execScore m s
  | .synth => Sys2Proof.Machine.execSynth s
  | .extract m => Sys2Proof.Machine.execExtract m s
  | .divide g d => Sys2Proof.Machine.execDivide g d s
  | .matchPalette => Sys2Proof.Machine.execMatch s

end Sys2Proof.Machine
end

