-- ==== Sys2Proof/Machine/Bus.lean ====
section
/-!
DEFINITION. The two host transactions and the execution of a command word (spec 20_memory.md R52, R53;
30_encoding.md R74; 10_state.md R32), in the order of the checks of 60_exceptions.md R156.
-/

namespace Sys2Proof.Machine

/-- The word a legal read of a location gives (R52); no read changes anything. -/
def readLoc (l : Loc) (s : State) : Word :=
  match l with
  | .id => Config.idWord
  | .cmd => 0#32
  | .status => statusWord s
  | .cause => causeWord s
  | .finfo => s.finfo
  | .fg => s.fg
  | .bg => s.bg
  | .target => s.target
  | .palLen => s.palLen
  | .maskLo => loWord s.mask
  | .maskHi => hiWord s.mask
  | .bitmapLo => loWord s.bitmap
  | .bitmapHi => hiWord s.bitmap
  | .score => s.score
  | .index => s.index
  | .acc g k => accChan (accOf g s) k
  | .maskB w => maskBWord s.mask w.val
  | .pix i => pix s i.val
  | .pal j => pal s j.val
  | .recip d => BitVec.ofNat 32 (recip d.val)

/-- A write of `MASKB[w]` (R32): malformed data raises MASK_FORM and changes no bit of `MASK`. -/
def writeMaskB (w : Nat) (data : Word) (s : State) : State :=
  if maskBDataOk data then s.setMask (maskBWrite s.mask w data) else raiseFault .maskForm data s

/-- A write of a data location (R53): the whole word is stored and nothing else changes.  The
read-only locations and `CMD` are no data locations: `hostWrite` turns them away before. -/
def writeLoc (l : Loc) (data : Word) (s : State) : State :=
  match l with
  | .fg => s.setFg data
  | .bg => s.setBg data
  | .target => s.setTarget data
  | .palLen => s.setPalLen data
  | .maskLo => s.setMask (joinWords (hiWord s.mask) data)
  | .maskHi => s.setMask (joinWords data (loWord s.mask))
  | .acc g k => setAccOf g (accSetChan (accOf g s) k data) s
  | .maskB w => writeMaskB w.val data s
  | .pix i => s.storeWord (pixAddr i.val) data
  | .pal j => s.storeWord (palAddr j.val) data
  | .id => s
  | .cmd => s
  | .status => s
  | .cause => s
  | .finfo => s
  | .bitmapLo => s
  | .bitmapHi => s
  | .score => s
  | .index => s
  | .recip _ => s

/-- `Execute(w)` (R74): every word either performs exactly one operation or raises exactly one
fault. -/
def execute (w : Word) (s : State) : Host.Outcome State Fault Refusal :=
  match decode w with
  | .ok i => exec i s
  | .error _ => .next (raiseFault .illegalCmd w s)

/-- `HostRead(addr)` (R52): the state after, and the word returned; a read that is misaligned or
unmapped raises its fault, unless the CORE has already faulted, and returns 0. -/
def hostRead (a : Addr) (s : State) : State × Word :=
  if aligned a then
    match locate a with
    | some l => (s, readLoc l s)
    | none => (raiseFault .busUnmapped (a.setWidth 32) s, 0#32)
  else (raiseFault .busMisaligned (a.setWidth 32) s, 0#32)

/-- A write that has passed the fault, alignment and mapping checks (R53): read-only locations raise
BUS_READONLY, `CMD` executes its data, every other location stores it. -/
def writeMapped (l : Loc) (a : Addr) (data : Word) (s : State) :
    Host.Outcome State Fault Refusal :=
  match locAccess l with
  | .readOnly => .next (raiseFault .busReadonly (a.setWidth 32) s)
  | .writeOnly => execute data s
  | .readWrite => .next (writeLoc l data s)

/-- `HostWrite(addr, data)` (R53): ignored while faulted (R155). -/
def hostWrite (a : Addr) (data : Word) (s : State) : Host.Outcome State Fault Refusal :=
  if s.fault then .next s
  else if aligned a then
    match locate a with
    | some l => writeMapped l a data s
    | none => .next (raiseFault .busUnmapped (a.setWidth 32) s)
  else .next (raiseFault .busMisaligned (a.setWidth 32) s)

/-- One event at the port, complete before the next begins (R57, R60, R180). -/
def perform (e : HostEvent) (s : State) : Host.Outcome State Fault Refusal :=
  match e with
  | .reset => .next (resetEvent s)
  | .read a => .next ((hostRead a s).1.answer (hostRead a s).2)
  | .write a d => hostWrite a d s

/-- The next event of the host's list and the state it is performed in: the rest of the list is the
host's (R60, R186).  None when the list has ended. -/
def fetch (s : State) : Option (HostEvent × State) :=
  match s.host.script with
  | [] => none
  | e :: rest => some (e, s.setScript rest)

end Sys2Proof.Machine
end

