-- ==== Sys2Proof/Machine/Step.lean ====
section
/-!
DEFINITION. One step: the next event of the host's list is performed (spec 00_scope.md R18, R19;
20_memory.md R60; 70_reset_and_hazards.md R186).
-/

namespace Sys2Proof.Machine

/-- One step.  With no event presented the CORE is idle and holds its state (R42, R167; log entry 2). -/
def step (s : State) : Host.Outcome State Fault Refusal :=
  match fetch s with
  | none => .next s
  | some (e, t) => perform e t

/-- The state in which the very next step is the write of a command word to `CMD` (0x004) and runs
it: the write stands first in the host's list, and the CORE has not faulted, since a faulted CORE
performs no write (R155).  A command is one 32-bit word (R70).  Log entry 3. -/
def State.withFetchWord (s : State) (nbits w : Nat) : State :=
  { s with
    fault := false
    cause := 0#4
    finfo := 0#32
    host := { s.host with
      script := .write 0x004#12 (BitVec.ofNat 32 (w % 2 ^ nbits)) :: s.host.script } }

end Sys2Proof.Machine
end

