-- ==== Sys2Proof/Safety.lean ====
section
/-!
DEFINITION. The terms claims are written in: the CORE's part of a state, the invariant, an acceptable
end of a run, and the spec's own per-pixel and per-channel quantities.
-/

namespace Sys2Proof.Machine

/-- The CORE's part of a state: everything but the host's side (R20, R22). -/
def coreOf (s : State) : State := { s with host := ⟨[], []⟩ }

/-- A byte address of `PIX` or of `PAL` (R37, R38). -/
def inArrays (a : Nat) : Prop :=
  (0x100 ≤ a ∧ a < 0x200) ∨ (0x400 ≤ a ∧ a < 0x400 + 4 * Config.palDepth)

/-- What holds at reset and after every step: the arrays are canonical and hold only `PIX` and `PAL`;
`CAUSE.CODE` is one of the codes of R151, 0 exactly when no fault is entered (R26); `FINFO` is 0 until
then (R27); `SCORE` and `INDEX` are in their ranges (R34, R35). -/
structure Inv (s : State) : Prop where
  memWf : s.mem.wf
  memArrays : ∀ c ∈ s.mem, inArrays c.1
  causeFault : s.cause ≠ 0#4 ↔ s.fault = true
  causeCode : s.cause.toNat ≤ 8
  finfoClear : s.fault = false → s.finfo = 0#32
  scoreRange : s.score.toNat ≤ 12484800
  indexRange : s.index.toNat < Config.palDepth

/-- A run's acceptable final state (R186): the host's list has ended and no fault was entered. -/
def acceptable (s : State) : Prop := s.host.script = [] ∧ s.fault = false

/-- Pixel i's cost under a mask bit: e_i(1) = dist3(FG, PIX[i]), e_i(0) = dist3(BG, PIX[i]) (R94). -/
def pixelCost (s : State) (i : Nat) (b : Bool) : Nat :=
  if b then dist3 s.fg (pix s i) else dist3 s.bg (pix s i)

/-- The number of pixels a mask puts into a group (R112): n1 for `true`, n0 for `false`. -/
def groupCount (m : Mask64) (b : Bool) : Nat := pixelSum fun i => if m.getLsbD i = b then 1 else 0

/-- Two Colors that agree in R, G and B; alpha may differ (R13). -/
def sameRgb (x y : Word) : Prop := ch x 0 = ch y 0 ∧ ch x 1 = ch y 1 ∧ ch x 2 = ch y 2

/-- round-half-up of s/d, for comparison only: floor((2 s + d) / (2 d)) (R125). -/
def roundHalfUp (s d : Int) : Int := (2 * s + d) / (2 * d)

end Sys2Proof.Machine
end

