-- ==== Sys2Proof/Laws/State.lean ====
section
/-!
SUPPORT. One lemma per field per update of the state, each true by rfl, so that no later proof unfolds
a record update.
-/

namespace Sys2Proof.Machine

section SetFg

variable (s : State) (v : Word)

@[simp] theorem setFg_fault : (s.setFg v).fault = s.fault := rfl
@[simp] theorem setFg_cause : (s.setFg v).cause = s.cause := rfl
@[simp] theorem setFg_finfo : (s.setFg v).finfo = s.finfo := rfl
@[simp] theorem setFg_fg : (s.setFg v).fg = v := rfl
@[simp] theorem setFg_bg : (s.setFg v).bg = s.bg := rfl
@[simp] theorem setFg_target : (s.setFg v).target = s.target := rfl
@[simp] theorem setFg_palLen : (s.setFg v).palLen = s.palLen := rfl
@[simp] theorem setFg_mask : (s.setFg v).mask = s.mask := rfl
@[simp] theorem setFg_bitmap : (s.setFg v).bitmap = s.bitmap := rfl
@[simp] theorem setFg_score : (s.setFg v).score = s.score := rfl
@[simp] theorem setFg_index : (s.setFg v).index = s.index := rfl
@[simp] theorem setFg_acc0 : (s.setFg v).acc0 = s.acc0 := rfl
@[simp] theorem setFg_acc1 : (s.setFg v).acc1 = s.acc1 := rfl
@[simp] theorem setFg_mem : (s.setFg v).mem = s.mem := rfl
@[simp] theorem setFg_epoch : (s.setFg v).epoch = s.epoch := rfl
@[simp] theorem setFg_host : (s.setFg v).host = s.host := rfl

end SetFg

section SetBg

variable (s : State) (v : Word)

@[simp] theorem setBg_fault : (s.setBg v).fault = s.fault := rfl
@[simp] theorem setBg_cause : (s.setBg v).cause = s.cause := rfl
@[simp] theorem setBg_finfo : (s.setBg v).finfo = s.finfo := rfl
@[simp] theorem setBg_fg : (s.setBg v).fg = s.fg := rfl
@[simp] theorem setBg_bg : (s.setBg v).bg = v := rfl
@[simp] theorem setBg_target : (s.setBg v).target = s.target := rfl
@[simp] theorem setBg_palLen : (s.setBg v).palLen = s.palLen := rfl
@[simp] theorem setBg_mask : (s.setBg v).mask = s.mask := rfl
@[simp] theorem setBg_bitmap : (s.setBg v).bitmap = s.bitmap := rfl
@[simp] theorem setBg_score : (s.setBg v).score = s.score := rfl
@[simp] theorem setBg_index : (s.setBg v).index = s.index := rfl
@[simp] theorem setBg_acc0 : (s.setBg v).acc0 = s.acc0 := rfl
@[simp] theorem setBg_acc1 : (s.setBg v).acc1 = s.acc1 := rfl
@[simp] theorem setBg_mem : (s.setBg v).mem = s.mem := rfl
@[simp] theorem setBg_epoch : (s.setBg v).epoch = s.epoch := rfl
@[simp] theorem setBg_host : (s.setBg v).host = s.host := rfl

end SetBg

section SetTarget

variable (s : State) (v : Word)

@[simp] theorem setTarget_fault : (s.setTarget v).fault = s.fault := rfl
@[simp] theorem setTarget_cause : (s.setTarget v).cause = s.cause := rfl
@[simp] theorem setTarget_finfo : (s.setTarget v).finfo = s.finfo := rfl
@[simp] theorem setTarget_fg : (s.setTarget v).fg = s.fg := rfl
@[simp] theorem setTarget_bg : (s.setTarget v).bg = s.bg := rfl
@[simp] theorem setTarget_target : (s.setTarget v).target = v := rfl
@[simp] theorem setTarget_palLen : (s.setTarget v).palLen = s.palLen := rfl
@[simp] theorem setTarget_mask : (s.setTarget v).mask = s.mask := rfl
@[simp] theorem setTarget_bitmap : (s.setTarget v).bitmap = s.bitmap := rfl
@[simp] theorem setTarget_score : (s.setTarget v).score = s.score := rfl
@[simp] theorem setTarget_index : (s.setTarget v).index = s.index := rfl
@[simp] theorem setTarget_acc0 : (s.setTarget v).acc0 = s.acc0 := rfl
@[simp] theorem setTarget_acc1 : (s.setTarget v).acc1 = s.acc1 := rfl
@[simp] theorem setTarget_mem : (s.setTarget v).mem = s.mem := rfl
@[simp] theorem setTarget_epoch : (s.setTarget v).epoch = s.epoch := rfl
@[simp] theorem setTarget_host : (s.setTarget v).host = s.host := rfl

end SetTarget

section SetPalLen

variable (s : State) (v : Word)

@[simp] theorem setPalLen_fault : (s.setPalLen v).fault = s.fault := rfl
@[simp] theorem setPalLen_cause : (s.setPalLen v).cause = s.cause := rfl
@[simp] theorem setPalLen_finfo : (s.setPalLen v).finfo = s.finfo := rfl
@[simp] theorem setPalLen_fg : (s.setPalLen v).fg = s.fg := rfl
@[simp] theorem setPalLen_bg : (s.setPalLen v).bg = s.bg := rfl
@[simp] theorem setPalLen_target : (s.setPalLen v).target = s.target := rfl
@[simp] theorem setPalLen_palLen : (s.setPalLen v).palLen = v := rfl
@[simp] theorem setPalLen_mask : (s.setPalLen v).mask = s.mask := rfl
@[simp] theorem setPalLen_bitmap : (s.setPalLen v).bitmap = s.bitmap := rfl
@[simp] theorem setPalLen_score : (s.setPalLen v).score = s.score := rfl
@[simp] theorem setPalLen_index : (s.setPalLen v).index = s.index := rfl
@[simp] theorem setPalLen_acc0 : (s.setPalLen v).acc0 = s.acc0 := rfl
@[simp] theorem setPalLen_acc1 : (s.setPalLen v).acc1 = s.acc1 := rfl
@[simp] theorem setPalLen_mem : (s.setPalLen v).mem = s.mem := rfl
@[simp] theorem setPalLen_epoch : (s.setPalLen v).epoch = s.epoch := rfl
@[simp] theorem setPalLen_host : (s.setPalLen v).host = s.host := rfl

end SetPalLen

section SetMask

variable (s : State) (v : Mask64)

@[simp] theorem setMask_fault : (s.setMask v).fault = s.fault := rfl
@[simp] theorem setMask_cause : (s.setMask v).cause = s.cause := rfl
@[simp] theorem setMask_finfo : (s.setMask v).finfo = s.finfo := rfl
@[simp] theorem setMask_fg : (s.setMask v).fg = s.fg := rfl
@[simp] theorem setMask_bg : (s.setMask v).bg = s.bg := rfl
@[simp] theorem setMask_target : (s.setMask v).target = s.target := rfl
@[simp] theorem setMask_palLen : (s.setMask v).palLen = s.palLen := rfl
@[simp] theorem setMask_mask : (s.setMask v).mask = v := rfl
@[simp] theorem setMask_bitmap : (s.setMask v).bitmap = s.bitmap := rfl
@[simp] theorem setMask_score : (s.setMask v).score = s.score := rfl
@[simp] theorem setMask_index : (s.setMask v).index = s.index := rfl
@[simp] theorem setMask_acc0 : (s.setMask v).acc0 = s.acc0 := rfl
@[simp] theorem setMask_acc1 : (s.setMask v).acc1 = s.acc1 := rfl
@[simp] theorem setMask_mem : (s.setMask v).mem = s.mem := rfl
@[simp] theorem setMask_epoch : (s.setMask v).epoch = s.epoch := rfl
@[simp] theorem setMask_host : (s.setMask v).host = s.host := rfl

end SetMask

section SetBitmap

variable (s : State) (v : Mask64)

@[simp] theorem setBitmap_fault : (s.setBitmap v).fault = s.fault := rfl
@[simp] theorem setBitmap_cause : (s.setBitmap v).cause = s.cause := rfl
@[simp] theorem setBitmap_finfo : (s.setBitmap v).finfo = s.finfo := rfl
@[simp] theorem setBitmap_fg : (s.setBitmap v).fg = s.fg := rfl
@[simp] theorem setBitmap_bg : (s.setBitmap v).bg = s.bg := rfl
@[simp] theorem setBitmap_target : (s.setBitmap v).target = s.target := rfl
@[simp] theorem setBitmap_palLen : (s.setBitmap v).palLen = s.palLen := rfl
@[simp] theorem setBitmap_mask : (s.setBitmap v).mask = s.mask := rfl
@[simp] theorem setBitmap_bitmap : (s.setBitmap v).bitmap = v := rfl
@[simp] theorem setBitmap_score : (s.setBitmap v).score = s.score := rfl
@[simp] theorem setBitmap_index : (s.setBitmap v).index = s.index := rfl
@[simp] theorem setBitmap_acc0 : (s.setBitmap v).acc0 = s.acc0 := rfl
@[simp] theorem setBitmap_acc1 : (s.setBitmap v).acc1 = s.acc1 := rfl
@[simp] theorem setBitmap_mem : (s.setBitmap v).mem = s.mem := rfl
@[simp] theorem setBitmap_epoch : (s.setBitmap v).epoch = s.epoch := rfl
@[simp] theorem setBitmap_host : (s.setBitmap v).host = s.host := rfl

end SetBitmap

section SetScore

variable (s : State) (v : Word)

@[simp] theorem setScore_fault : (s.setScore v).fault = s.fault := rfl
@[simp] theorem setScore_cause : (s.setScore v).cause = s.cause := rfl
@[simp] theorem setScore_finfo : (s.setScore v).finfo = s.finfo := rfl
@[simp] theorem setScore_fg : (s.setScore v).fg = s.fg := rfl
@[simp] theorem setScore_bg : (s.setScore v).bg = s.bg := rfl
@[simp] theorem setScore_target : (s.setScore v).target = s.target := rfl
@[simp] theorem setScore_palLen : (s.setScore v).palLen = s.palLen := rfl
@[simp] theorem setScore_mask : (s.setScore v).mask = s.mask := rfl
@[simp] theorem setScore_bitmap : (s.setScore v).bitmap = s.bitmap := rfl
@[simp] theorem setScore_score : (s.setScore v).score = v := rfl
@[simp] theorem setScore_index : (s.setScore v).index = s.index := rfl
@[simp] theorem setScore_acc0 : (s.setScore v).acc0 = s.acc0 := rfl
@[simp] theorem setScore_acc1 : (s.setScore v).acc1 = s.acc1 := rfl
@[simp] theorem setScore_mem : (s.setScore v).mem = s.mem := rfl
@[simp] theorem setScore_epoch : (s.setScore v).epoch = s.epoch := rfl
@[simp] theorem setScore_host : (s.setScore v).host = s.host := rfl

end SetScore

section SetIndex

variable (s : State) (v : Word)

@[simp] theorem setIndex_fault : (s.setIndex v).fault = s.fault := rfl
@[simp] theorem setIndex_cause : (s.setIndex v).cause = s.cause := rfl
@[simp] theorem setIndex_finfo : (s.setIndex v).finfo = s.finfo := rfl
@[simp] theorem setIndex_fg : (s.setIndex v).fg = s.fg := rfl
@[simp] theorem setIndex_bg : (s.setIndex v).bg = s.bg := rfl
@[simp] theorem setIndex_target : (s.setIndex v).target = s.target := rfl
@[simp] theorem setIndex_palLen : (s.setIndex v).palLen = s.palLen := rfl
@[simp] theorem setIndex_mask : (s.setIndex v).mask = s.mask := rfl
@[simp] theorem setIndex_bitmap : (s.setIndex v).bitmap = s.bitmap := rfl
@[simp] theorem setIndex_score : (s.setIndex v).score = s.score := rfl
@[simp] theorem setIndex_index : (s.setIndex v).index = v := rfl
@[simp] theorem setIndex_acc0 : (s.setIndex v).acc0 = s.acc0 := rfl
@[simp] theorem setIndex_acc1 : (s.setIndex v).acc1 = s.acc1 := rfl
@[simp] theorem setIndex_mem : (s.setIndex v).mem = s.mem := rfl
@[simp] theorem setIndex_epoch : (s.setIndex v).epoch = s.epoch := rfl
@[simp] theorem setIndex_host : (s.setIndex v).host = s.host := rfl

end SetIndex

section SetAcc0

variable (s : State) (v : Acc)

@[simp] theorem setAcc0_fault : (s.setAcc0 v).fault = s.fault := rfl
@[simp] theorem setAcc0_cause : (s.setAcc0 v).cause = s.cause := rfl
@[simp] theorem setAcc0_finfo : (s.setAcc0 v).finfo = s.finfo := rfl
@[simp] theorem setAcc0_fg : (s.setAcc0 v).fg = s.fg := rfl
@[simp] theorem setAcc0_bg : (s.setAcc0 v).bg = s.bg := rfl
@[simp] theorem setAcc0_target : (s.setAcc0 v).target = s.target := rfl
@[simp] theorem setAcc0_palLen : (s.setAcc0 v).palLen = s.palLen := rfl
@[simp] theorem setAcc0_mask : (s.setAcc0 v).mask = s.mask := rfl
@[simp] theorem setAcc0_bitmap : (s.setAcc0 v).bitmap = s.bitmap := rfl
@[simp] theorem setAcc0_score : (s.setAcc0 v).score = s.score := rfl
@[simp] theorem setAcc0_index : (s.setAcc0 v).index = s.index := rfl
@[simp] theorem setAcc0_acc0 : (s.setAcc0 v).acc0 = v := rfl
@[simp] theorem setAcc0_acc1 : (s.setAcc0 v).acc1 = s.acc1 := rfl
@[simp] theorem setAcc0_mem : (s.setAcc0 v).mem = s.mem := rfl
@[simp] theorem setAcc0_epoch : (s.setAcc0 v).epoch = s.epoch := rfl
@[simp] theorem setAcc0_host : (s.setAcc0 v).host = s.host := rfl

end SetAcc0

section SetAcc1

variable (s : State) (v : Acc)

@[simp] theorem setAcc1_fault : (s.setAcc1 v).fault = s.fault := rfl
@[simp] theorem setAcc1_cause : (s.setAcc1 v).cause = s.cause := rfl
@[simp] theorem setAcc1_finfo : (s.setAcc1 v).finfo = s.finfo := rfl
@[simp] theorem setAcc1_fg : (s.setAcc1 v).fg = s.fg := rfl
@[simp] theorem setAcc1_bg : (s.setAcc1 v).bg = s.bg := rfl
@[simp] theorem setAcc1_target : (s.setAcc1 v).target = s.target := rfl
@[simp] theorem setAcc1_palLen : (s.setAcc1 v).palLen = s.palLen := rfl
@[simp] theorem setAcc1_mask : (s.setAcc1 v).mask = s.mask := rfl
@[simp] theorem setAcc1_bitmap : (s.setAcc1 v).bitmap = s.bitmap := rfl
@[simp] theorem setAcc1_score : (s.setAcc1 v).score = s.score := rfl
@[simp] theorem setAcc1_index : (s.setAcc1 v).index = s.index := rfl
@[simp] theorem setAcc1_acc0 : (s.setAcc1 v).acc0 = s.acc0 := rfl
@[simp] theorem setAcc1_acc1 : (s.setAcc1 v).acc1 = v := rfl
@[simp] theorem setAcc1_mem : (s.setAcc1 v).mem = s.mem := rfl
@[simp] theorem setAcc1_epoch : (s.setAcc1 v).epoch = s.epoch := rfl
@[simp] theorem setAcc1_host : (s.setAcc1 v).host = s.host := rfl

end SetAcc1

section StoreWord

variable (s : State) (a : Nat) (w : Word)

@[simp] theorem storeWord_fault : (s.storeWord a w).fault = s.fault := rfl
@[simp] theorem storeWord_cause : (s.storeWord a w).cause = s.cause := rfl
@[simp] theorem storeWord_finfo : (s.storeWord a w).finfo = s.finfo := rfl
@[simp] theorem storeWord_fg : (s.storeWord a w).fg = s.fg := rfl
@[simp] theorem storeWord_bg : (s.storeWord a w).bg = s.bg := rfl
@[simp] theorem storeWord_target : (s.storeWord a w).target = s.target := rfl
@[simp] theorem storeWord_palLen : (s.storeWord a w).palLen = s.palLen := rfl
@[simp] theorem storeWord_mask : (s.storeWord a w).mask = s.mask := rfl
@[simp] theorem storeWord_bitmap : (s.storeWord a w).bitmap = s.bitmap := rfl
@[simp] theorem storeWord_score : (s.storeWord a w).score = s.score := rfl
@[simp] theorem storeWord_index : (s.storeWord a w).index = s.index := rfl
@[simp] theorem storeWord_acc0 : (s.storeWord a w).acc0 = s.acc0 := rfl
@[simp] theorem storeWord_acc1 : (s.storeWord a w).acc1 = s.acc1 := rfl
@[simp] theorem storeWord_mem : (s.storeWord a w).mem = s.mem.writeWord a w := rfl
@[simp] theorem storeWord_epoch : (s.storeWord a w).epoch = s.epoch := rfl
@[simp] theorem storeWord_host : (s.storeWord a w).host = s.host := rfl

end StoreWord

section EnterFault

variable (c : Cause) (info : Word) (s : State)

@[simp] theorem enterFault_fault : (enterFault c info s).fault = true := rfl
@[simp] theorem enterFault_cause : (enterFault c info s).cause = causeCode c := rfl
@[simp] theorem enterFault_finfo : (enterFault c info s).finfo = info := rfl
@[simp] theorem enterFault_fg : (enterFault c info s).fg = s.fg := rfl
@[simp] theorem enterFault_bg : (enterFault c info s).bg = s.bg := rfl
@[simp] theorem enterFault_target : (enterFault c info s).target = s.target := rfl
@[simp] theorem enterFault_palLen : (enterFault c info s).palLen = s.palLen := rfl
@[simp] theorem enterFault_mask : (enterFault c info s).mask = s.mask := rfl
@[simp] theorem enterFault_bitmap : (enterFault c info s).bitmap = s.bitmap := rfl
@[simp] theorem enterFault_score : (enterFault c info s).score = s.score := rfl
@[simp] theorem enterFault_index : (enterFault c info s).index = s.index := rfl
@[simp] theorem enterFault_acc0 : (enterFault c info s).acc0 = s.acc0 := rfl
@[simp] theorem enterFault_acc1 : (enterFault c info s).acc1 = s.acc1 := rfl
@[simp] theorem enterFault_mem : (enterFault c info s).mem = s.mem := rfl
@[simp] theorem enterFault_epoch : (enterFault c info s).epoch = s.epoch := rfl
@[simp] theorem enterFault_host : (enterFault c info s).host = s.host := rfl

end EnterFault

section ResetEvent

variable (s : State)

@[simp] theorem resetEvent_fault : (resetEvent s).fault = false := rfl
@[simp] theorem resetEvent_cause : (resetEvent s).cause = 0#4 := rfl
@[simp] theorem resetEvent_finfo : (resetEvent s).finfo = 0#32 := rfl
@[simp] theorem resetEvent_fg : (resetEvent s).fg = 0#32 := rfl
@[simp] theorem resetEvent_bg : (resetEvent s).bg = 0#32 := rfl
@[simp] theorem resetEvent_target : (resetEvent s).target = 0#32 := rfl
@[simp] theorem resetEvent_palLen : (resetEvent s).palLen = 0#32 := rfl
@[simp] theorem resetEvent_mask : (resetEvent s).mask = 0#64 := rfl
@[simp] theorem resetEvent_bitmap : (resetEvent s).bitmap = 0#64 := rfl
@[simp] theorem resetEvent_score : (resetEvent s).score = 0#32 := rfl
@[simp] theorem resetEvent_index : (resetEvent s).index = 0#32 := rfl
@[simp] theorem resetEvent_acc0 : (resetEvent s).acc0 = Acc.zero := rfl
@[simp] theorem resetEvent_acc1 : (resetEvent s).acc1 = Acc.zero := rfl
@[simp] theorem resetEvent_mem : (resetEvent s).mem = [] := rfl
@[simp] theorem resetEvent_epoch : (resetEvent s).epoch = s.epoch + 1 := rfl
@[simp] theorem resetEvent_host : (resetEvent s).host = s.host := rfl

end ResetEvent

section SetScript

variable (s : State) (es : List HostEvent)

@[simp] theorem setScript_fault : (s.setScript es).fault = s.fault := rfl
@[simp] theorem setScript_cause : (s.setScript es).cause = s.cause := rfl
@[simp] theorem setScript_finfo : (s.setScript es).finfo = s.finfo := rfl
@[simp] theorem setScript_fg : (s.setScript es).fg = s.fg := rfl
@[simp] theorem setScript_bg : (s.setScript es).bg = s.bg := rfl
@[simp] theorem setScript_target : (s.setScript es).target = s.target := rfl
@[simp] theorem setScript_palLen : (s.setScript es).palLen = s.palLen := rfl
@[simp] theorem setScript_mask : (s.setScript es).mask = s.mask := rfl
@[simp] theorem setScript_bitmap : (s.setScript es).bitmap = s.bitmap := rfl
@[simp] theorem setScript_score : (s.setScript es).score = s.score := rfl
@[simp] theorem setScript_index : (s.setScript es).index = s.index := rfl
@[simp] theorem setScript_acc0 : (s.setScript es).acc0 = s.acc0 := rfl
@[simp] theorem setScript_acc1 : (s.setScript es).acc1 = s.acc1 := rfl
@[simp] theorem setScript_mem : (s.setScript es).mem = s.mem := rfl
@[simp] theorem setScript_epoch : (s.setScript es).epoch = s.epoch := rfl
@[simp] theorem setScript_host : (s.setScript es).host = ⟨es, s.host.answers⟩ := rfl

end SetScript

section Answer

variable (s : State) (w : Word)

@[simp] theorem answer_fault : (s.answer w).fault = s.fault := rfl
@[simp] theorem answer_cause : (s.answer w).cause = s.cause := rfl
@[simp] theorem answer_finfo : (s.answer w).finfo = s.finfo := rfl
@[simp] theorem answer_fg : (s.answer w).fg = s.fg := rfl
@[simp] theorem answer_bg : (s.answer w).bg = s.bg := rfl
@[simp] theorem answer_target : (s.answer w).target = s.target := rfl
@[simp] theorem answer_palLen : (s.answer w).palLen = s.palLen := rfl
@[simp] theorem answer_mask : (s.answer w).mask = s.mask := rfl
@[simp] theorem answer_bitmap : (s.answer w).bitmap = s.bitmap := rfl
@[simp] theorem answer_score : (s.answer w).score = s.score := rfl
@[simp] theorem answer_index : (s.answer w).index = s.index := rfl
@[simp] theorem answer_acc0 : (s.answer w).acc0 = s.acc0 := rfl
@[simp] theorem answer_acc1 : (s.answer w).acc1 = s.acc1 := rfl
@[simp] theorem answer_mem : (s.answer w).mem = s.mem := rfl
@[simp] theorem answer_epoch : (s.answer w).epoch = s.epoch := rfl
@[simp] theorem answer_host : (s.answer w).host = ⟨s.host.script, w :: s.host.answers⟩ := rfl

end Answer

section CoreOf

variable (s : State)

@[simp] theorem coreOf_fault : (coreOf s).fault = s.fault := rfl
@[simp] theorem coreOf_cause : (coreOf s).cause = s.cause := rfl
@[simp] theorem coreOf_finfo : (coreOf s).finfo = s.finfo := rfl
@[simp] theorem coreOf_fg : (coreOf s).fg = s.fg := rfl
@[simp] theorem coreOf_bg : (coreOf s).bg = s.bg := rfl
@[simp] theorem coreOf_target : (coreOf s).target = s.target := rfl
@[simp] theorem coreOf_palLen : (coreOf s).palLen = s.palLen := rfl
@[simp] theorem coreOf_mask : (coreOf s).mask = s.mask := rfl
@[simp] theorem coreOf_bitmap : (coreOf s).bitmap = s.bitmap := rfl
@[simp] theorem coreOf_score : (coreOf s).score = s.score := rfl
@[simp] theorem coreOf_index : (coreOf s).index = s.index := rfl
@[simp] theorem coreOf_acc0 : (coreOf s).acc0 = s.acc0 := rfl
@[simp] theorem coreOf_acc1 : (coreOf s).acc1 = s.acc1 := rfl
@[simp] theorem coreOf_mem : (coreOf s).mem = s.mem := rfl
@[simp] theorem coreOf_epoch : (coreOf s).epoch = s.epoch := rfl
@[simp] theorem coreOf_host : (coreOf s).host = ⟨[], []⟩ := rfl

end CoreOf

section Reset

@[simp] theorem reset_fault : State.reset.fault = false := rfl
@[simp] theorem reset_cause : State.reset.cause = 0#4 := rfl
@[simp] theorem reset_finfo : State.reset.finfo = 0#32 := rfl
@[simp] theorem reset_fg : State.reset.fg = 0#32 := rfl
@[simp] theorem reset_bg : State.reset.bg = 0#32 := rfl
@[simp] theorem reset_target : State.reset.target = 0#32 := rfl
@[simp] theorem reset_palLen : State.reset.palLen = 0#32 := rfl
@[simp] theorem reset_mask : State.reset.mask = 0#64 := rfl
@[simp] theorem reset_bitmap : State.reset.bitmap = 0#64 := rfl
@[simp] theorem reset_score : State.reset.score = 0#32 := rfl
@[simp] theorem reset_index : State.reset.index = 0#32 := rfl
@[simp] theorem reset_acc0 : State.reset.acc0 = Acc.zero := rfl
@[simp] theorem reset_acc1 : State.reset.acc1 = Acc.zero := rfl
@[simp] theorem reset_mem : State.reset.mem = [] := rfl
@[simp] theorem reset_epoch : State.reset.epoch = 0 := rfl
@[simp] theorem reset_host : State.reset.host = ⟨[], []⟩ := rfl

end Reset

end Sys2Proof.Machine
end

