-- ==== Sys2Proof/Laws/Memory.lean ====
section
/-!
SUPPORT. The arrays: read after write, writes elsewhere, the canonical form, and the same for whole
words (spec 20_memory.md R53, R54, R60).
-/

namespace Sys2Proof.Machine

/-! ### Bytes -/

theorem Memory.read?_write (m : Memory) (a b : Nat) (v : Byte) :
    (m.write a v).read? b = if b = a then some v else m.read? b := by
  induction m with
  | nil => simp only [Memory.write, Memory.read?, eq_comm]
  | cons c m ih =>
    obtain ⟨x, u⟩ := c
    simp only [Memory.write]
    split
    · simp only [Memory.read?, eq_comm]
    · split
      · rename_i hx
        subst hx
        by_cases hb : b = a
        · simp [Memory.read?, hb]
        · simp [Memory.read?, hb, Ne.symm hb]
      · by_cases hx : x = b
        · have : b ≠ a := by omega
          simp [Memory.read?, hx, this]
        · simp [Memory.read?, hx, ih]

theorem Memory.mem_write {m : Memory} {a : Nat} {v : Byte} {c : Host.Cell}
    (h : c ∈ m.write a v) : c.1 = a ∨ c ∈ m := by
  induction m with
  | nil => simp only [Memory.write, List.mem_singleton] at h; exact .inl (by rw [h])
  | cons d m ih =>
    obtain ⟨x, u⟩ := d
    simp only [Memory.write] at h
    split at h
    · rcases List.mem_cons.1 h with rfl | h
      · exact .inl rfl
      · exact .inr h
    · split at h
      · rcases List.mem_cons.1 h with rfl | h
        · exact .inl rfl
        · exact .inr (List.mem_cons_of_mem _ h)
      · rcases List.mem_cons.1 h with rfl | h
        · exact .inr List.mem_cons_self
        · exact (ih h).imp id (List.mem_cons_of_mem _)

/-- Every byte write keeps the canonical form. -/
theorem Memory.wf_write {m : Memory} (a : Nat) (v : Byte) (h : m.wf) : (m.write a v).wf := by
  induction m with
  | nil => simp [Memory.wf, Memory.write]
  | cons d m ih =>
    obtain ⟨x, u⟩ := d
    obtain ⟨hx, hm⟩ := List.pairwise_cons.1 h
    simp only [Memory.write]
    split
    · rename_i hlt
      refine List.pairwise_cons.2 ⟨fun c hc => ?_, h⟩
      rcases List.mem_cons.1 hc with rfl | hc
      · exact hlt
      · exact lt_trans hlt (hx c hc)
    · split
      · rename_i heq
        exact List.pairwise_cons.2 ⟨fun c hc => heq ▸ hx c hc, hm⟩
      · refine List.pairwise_cons.2 ⟨fun c hc => ?_, ih hm⟩
        rcases Memory.mem_write hc with h1 | h1
        · show x < c.1
          omega
        · exact hx c h1

/-! ### Words -/

theorem Memory.wf_writeWord {m : Memory} (a : Nat) (w : Word) (h : m.wf) : (m.writeWord a w).wf :=
  Memory.wf_write _ _ (Memory.wf_write _ _ (Memory.wf_write _ _ (Memory.wf_write _ _ h)))

theorem Memory.mem_writeWord {m : Memory} {a : Nat} {w : Word} {c : Host.Cell}
    (h : c ∈ m.writeWord a w) : (a ≤ c.1 ∧ c.1 < a + 4) ∨ c ∈ m := by
  rcases Memory.mem_write h with h | h
  · exact .inl (by omega)
  rcases Memory.mem_write h with h | h
  · exact .inl (by omega)
  rcases Memory.mem_write h with h | h
  · exact .inl (by omega)
  rcases Memory.mem_write h with h | h
  · exact .inl (by omega)
  · exact .inr h

theorem Memory.read?_writeWord (m : Memory) (a b : Nat) (w : Word) :
    (m.writeWord a w).read? b =
      if a ≤ b ∧ b < a + 4 then some (wordByte w (b - a)) else m.read? b := by
  rw [Memory.writeWord, Memory.read?_write, Memory.read?_write, Memory.read?_write,
    Memory.read?_write]
  by_cases hb : a ≤ b ∧ b < a + 4
  · obtain ⟨k, rfl⟩ : ∃ k, b = a + k := ⟨b - a, by omega⟩
    have : k = 0 ∨ k = 1 ∨ k = 2 ∨ k = 3 := by omega
    rcases this with rfl | rfl | rfl | rfl <;> simp
  · rw [if_neg hb, if_neg (by omega), if_neg (by omega), if_neg (by omega), if_neg (by omega)]

/-! ### The bytes and words of a state -/

/-- Outside the four bytes stored, every byte reads as before. -/
theorem byteAt_storeWord_other {s : State} {a b : Nat} (w : Word)
    (hb : b < a ∨ a + 4 ≤ b) : byteAt (s.storeWord a w) b = byteAt s b := by
  simp only [byteAt, storeWord_mem, storeWord_epoch]
  rw [Memory.read?_writeWord, if_neg (by omega)]

theorem byteAt_storeWord_same {s : State} (a k : Nat) (w : Word) (hk : k < 4) :
    byteAt (s.storeWord a w) (a + k) = wordByte w k := by
  simp only [byteAt, storeWord_mem, storeWord_epoch]
  rw [Memory.read?_writeWord, if_pos (by omega)]
  simp

/-- A word is its four bytes, the lowest first (R54). -/
theorem word_of_bytes (w : Word) : wordByte w 3 ++ wordByte w 2 ++ wordByte w 1 ++ wordByte w 0 = w := by
  ext i hi
  simp only [wordByte, BitVec.getElem_append, BitVec.getElem_extractLsb']
  split
  · simp [BitVec.getLsbD_eq_getElem hi]
  · split
    · rw [show 8 * 1 + (i - 8) = i by omega]; exact BitVec.getLsbD_eq_getElem hi
    · split
      · rw [show 8 * 2 + (i - 8 - 8) = i by omega]; exact BitVec.getLsbD_eq_getElem hi
      · rw [show 8 * 3 + (i - 8 - 8 - 8) = i by omega]; exact BitVec.getLsbD_eq_getElem hi

/-- A word reads as it was stored. -/
theorem wordAt_storeWord_same {s : State} (a : Nat) (w : Word) :
    wordAt (s.storeWord a w) a = w := by
  have h0 := byteAt_storeWord_same (s := s) a 0 w (by omega)
  simp only [wordAt, byteAt_storeWord_same a 1 w (by omega),
    byteAt_storeWord_same a 2 w (by omega), byteAt_storeWord_same a 3 w (by omega)]
  rw [show byteAt (s.storeWord a w) a = wordByte w 0 from h0]
  exact word_of_bytes w

/-- A word that does not overlap the stored one reads as before. -/
theorem wordAt_storeWord_other {s : State} {a b : Nat} (w : Word)
    (hb : b + 4 ≤ a ∨ a + 4 ≤ b) : wordAt (s.storeWord a w) b = wordAt s b := by
  simp only [wordAt]
  rw [byteAt_storeWord_other w (by omega), byteAt_storeWord_other w (by omega),
    byteAt_storeWord_other w (by omega), byteAt_storeWord_other w (by omega)]

/-- The arrays read alike in two states with the same bytes and the same free values. -/
theorem byteAt_congr {s t : State} (hm : t.mem = s.mem) (he : t.epoch = s.epoch) (a : Nat) :
    byteAt t a = byteAt s a := by
  simp only [byteAt, hm, he]

theorem wordAt_congr {s t : State} (hm : t.mem = s.mem) (he : t.epoch = s.epoch) (a : Nat) :
    wordAt t a = wordAt s a := by
  simp only [wordAt, byteAt_congr hm he]

theorem pix_congr {s t : State} (hm : t.mem = s.mem) (he : t.epoch = s.epoch) (i : Nat) :
    pix t i = pix s i := wordAt_congr hm he _

theorem pal_congr {s t : State} (hm : t.mem = s.mem) (he : t.epoch = s.epoch) (j : Nat) :
    pal t j = pal s j := wordAt_congr hm he _

end Sys2Proof.Machine
end

