-- ==== Sys2Proof/Laws/Operands.lean ====
section
/-!
SUPPORT. What the operand helpers do: packed masks, sums over the pixels, distances, accumulator
channels and the divider's exact quotient.
-/

namespace Sys2Proof.Machine

/-! ### Packed masks -/

/-- Bit i of a packed word is `f i` (R31, R103). -/
@[simp] theorem getLsbD_packBits (n : Nat) (f : Nat → Bool) (i : Nat) :
    (packBits n f).getLsbD i = (decide (i < n) && f i) := by
  induction n with
  | zero => simp [packBits]
  | succ n ih =>
    rw [packBits, BitVec.getLsbD_cons, ih]
    by_cases h : i = n
    · subst h; simp
    · by_cases h2 : i < n
      · simp [h, h2, Nat.lt_succ_of_lt h2]
      · simp [h, h2, show ¬ i < n + 1 by omega]

/-- Two masks are equal when they agree on every pixel. -/
theorem mask_ext {m m' : Mask64} (h : ∀ i, i < 64 → m.getLsbD i = m'.getLsbD i) : m = m' :=
  BitVec.eq_of_getLsbD_eq h

/-- A mask is what packing its own bits gives. -/
theorem packBits_getLsbD (m : Mask64) : packBits 64 (fun i => m.getLsbD i) = m :=
  mask_ext fun i hi => by rw [getLsbD_packBits]; simp only [hi, decide_true, Bool.true_and]

/-- `pixelSum` reads its argument at the 64 pixels only. -/
theorem packBits_congr {n : Nat} {f g : Nat → Bool} (h : ∀ i, i < n → f i = g i) :
    packBits n f = packBits n g :=
  BitVec.eq_of_getLsbD_eq fun i hi => by rw [getLsbD_packBits, getLsbD_packBits, h i hi]

/-! ### Words of lanes and halves -/

/-- Byte k of a word put together from four bytes is the k-th from the low end (R54). -/
theorem wordByte_append (a b c d : Byte) {k : Nat} (hk : k < 4) :
    wordByte (a ++ b ++ c ++ d) k =
      if k = 0 then d else if k = 1 then c else if k = 2 then b else a := by
  apply BitVec.eq_of_getLsbD_eq
  intro i hi
  simp only [wordByte, BitVec.getLsbD_extractLsb', BitVec.getLsbD_append, hi, decide_true,
    Bool.true_and]
  have : k = 0 ∨ k = 1 ∨ k = 2 ∨ k = 3 := by omega
  rcases this with rfl | rfl | rfl | rfl
  · rw [if_pos (by omega), if_pos rfl]
    simp
  · rw [if_neg (by omega), if_pos (by omega), if_neg (by omega), if_pos rfl]
    congr 1
    omega
  · rw [if_neg (by omega), if_neg (by omega), if_pos (by omega), if_neg (by omega),
      if_neg (by omega), if_pos rfl]
    congr 1
    omega
  · rw [if_neg (by omega), if_neg (by omega), if_neg (by omega), if_neg (by omega),
      if_neg (by omega), if_neg (by omega)]
    congr 1
    omega

/-- Lane k of what a read of `MASKB[w]` gives (R32). -/
theorem wordByte_maskBWord (m : Mask64) (w : Nat) {k : Nat} (hk : k < 4) :
    wordByte (maskBWord m w) k = laneByte (m.getLsbD (4 * w + k)) := by
  rw [maskBWord, wordByte_append _ _ _ _ hk]
  have : k = 0 ∨ k = 1 ∨ k = 2 ∨ k = 3 := by omega
  rcases this with rfl | rfl | rfl | rfl <;> rfl

@[simp] theorem loWord_joinWords (hi lo : Word) : loWord (joinWords hi lo) = lo := by
  apply BitVec.eq_of_getLsbD_eq
  intro i h
  simp only [loWord, joinWords, BitVec.getLsbD_extractLsb', BitVec.getLsbD_append, h, decide_true,
    Bool.true_and]
  rw [if_pos (by omega), Nat.zero_add]

@[simp] theorem hiWord_joinWords (hi lo : Word) : hiWord (joinWords hi lo) = hi := by
  apply BitVec.eq_of_getLsbD_eq
  intro i h
  simp only [hiWord, joinWords, BitVec.getLsbD_extractLsb', BitVec.getLsbD_append, h, decide_true,
    Bool.true_and]
  rw [if_neg (by omega), Nat.add_sub_cancel_left]

/-! ### Sums over the 64 pixels -/

theorem pixelSum_eq_sum (f : Nat → Nat) : pixelSum f = ∑ i ∈ Finset.range 64, f i := by
  rw [pixelSum, Finset.sum_range]
  rw [← List.sum_ofFn]
  congr 1

theorem pixelSum_congr {f g : Nat → Nat} (h : ∀ i, i < 64 → f i = g i) :
    pixelSum f = pixelSum g := by
  simp only [pixelSum_eq_sum]
  exact Finset.sum_congr rfl fun i hi => h i (Finset.mem_range.1 hi)

theorem pixelSum_le {f g : Nat → Nat} (h : ∀ i, i < 64 → f i ≤ g i) : pixelSum f ≤ pixelSum g := by
  simp only [pixelSum_eq_sum]
  exact Finset.sum_le_sum fun i hi => h i (Finset.mem_range.1 hi)

theorem pixelSum_le_const {f : Nat → Nat} {c : Nat} (h : ∀ i, i < 64 → f i ≤ c) :
    pixelSum f ≤ 64 * c := by
  have := pixelSum_le (g := fun _ => c) h
  simpa [pixelSum_eq_sum] using this

theorem pixelSum_add (f g : Nat → Nat) :
    pixelSum (fun i => f i + g i) = pixelSum f + pixelSum g := by
  simp only [pixelSum_eq_sum, Finset.sum_add_distrib]

/-! ### Distances -/

theorem ch_lt (w : Word) (k : Nat) : ch w k < 256 := (w.extractLsb' (8 * k) 8).isLt

/-- The document's saturating differences: one of the two terms is 0 (R12). -/
theorem absdiff_eq (a b : Nat) : absdiff a b = (a - b) + (b - a) := by
  simp only [absdiff]; omega

theorem absdiff_comm (a b : Nat) : absdiff a b = absdiff b a := by
  simp only [absdiff_eq]; omega

theorem absdiff_le {a b : Nat} (ha : a < 256) (hb : b < 256) : absdiff a b ≤ 255 := by
  rw [absdiff_eq]; omega

theorem dist3_comm (x y : Word) : dist3 x y = dist3 y x := by
  simp only [dist3, absdiff_comm]

/-- dist3 is at most 3 × 255² (R13). -/
theorem dist3_le (x y : Word) : dist3 x y ≤ 195075 := by
  have h (k : Nat) : absdiff (ch x k) (ch y k) ^ 2 ≤ 65025 :=
    (Nat.pow_le_pow_left (absdiff_le (ch_lt x k) (ch_lt y k)) 2)
  have := h 0; have := h 1; have := h 2
  simp only [dist3]; omega

/-! ### Accumulators -/

@[simp] theorem accChan_accOfChans (f : Fin 4 → Word) (k : Fin 4) :
    accChan (accOfChans f) k = f k := by
  fin_cases k <;> rfl

@[simp] theorem accChan_accSetChan (v : Acc) (k j : Fin 4) (w : Word) :
    accChan (accSetChan v k w) j = if j = k then w else accChan v j := by
  fin_cases k <;> fin_cases j <;> rfl

/-- Two accumulators are equal when their four channels are. -/
theorem acc_ext {u v : Acc} (h : ∀ k, accChan u k = accChan v k) : u = v := by
  cases u; cases v
  have h0 := h 0; have h1 := h 1; have h2 := h 2; have h3 := h 3
  simp only [accChan] at h0 h1 h2 h3
  simp [h0, h1, h2, h3]

@[simp] theorem accOf_setAccOf (g j : AccSel) (v : Acc) (s : State) :
    accOf j (setAccOf g v s) = if j = g then v else accOf j s := by
  cases g <;> cases j <;> rfl

/-! ### The divider -/

/-- The arithmetic shift is the floor of the quotient by 32768 (R9). -/
theorem divQuot_eq (t : Nat) (s : Int) : divQuot t s = (s * t + 16384) / 32768 := by
  rw [divQuot, Int.shiftRight_eq_div_pow]; rfl

theorem recip_le (d : Nat) : recip d ≤ 32768 := by
  simp only [recip]; split
  · omega
  · exact Nat.div_le_self _ _

/-- The quotient lies between s and 0, so it fits a signed channel (R123). -/
theorem divQuot_between (d : Nat) (s : Int) :
    min s 0 ≤ divQuot (recip d) s ∧ divQuot (recip d) s ≤ max s 0 := by
  have ht : (recip d : Int) ≤ 32768 := by exact_mod_cast recip_le d
  have h0 : (0 : Int) ≤ (recip d : Int) := Int.natCast_nonneg _
  rw [divQuot_eq]
  generalize (recip d : Int) = t at ht h0
  rcases le_total 0 s with hs | hs
  · have h1 : 0 ≤ s * t := mul_nonneg hs h0
    have h2 : s * t ≤ s * 32768 := mul_le_mul_of_nonneg_left ht hs
    constructor <;> omega
  · have h1 : s * t ≤ 0 := mul_nonpos_of_nonpos_of_nonneg hs h0
    have h2 : s * 32768 ≤ s * t := mul_le_mul_of_nonpos_left ht hs
    constructor <;> omega

/-- The stored quotient is the exact one: the write-back never overflows (R123). -/
theorem divChan_toInt (d : Nat) (w : Word) :
    (divChan (recip d) w).toInt = divQuot (recip d) w.toInt := by
  have hb := divQuot_between d w.toInt
  have h1 := BitVec.le_toInt (x := w)
  have h2 := BitVec.toInt_lt (x := w)
  norm_num at h1 h2
  rw [divChan, BitVec.toInt_ofInt]
  apply Int.bmod_eq_of_le <;> norm_num <;> omega

end Sys2Proof.Machine
end

