-- ==== Sys2Proof/Laws/Exec.lean ====
section
/-!
SUPPORT. Everything a command can do, said once: raising a fault, the five meanings, `exec` and
`execute`.
-/

namespace Sys2Proof.Machine

/-! ### Faults -/

theorem raiseFault_clear {s : State} (c : Cause) (info : Word) (h : s.fault = false) :
    raiseFault c info s = enterFault c info s := by
  simp [raiseFault, h]

theorem raiseFault_faulted {s : State} (c : Cause) (info : Word) (h : s.fault = true) :
    raiseFault c info s = s := by
  simp [raiseFault, h]

/-- After a raise the CORE is faulted. -/
@[simp] theorem raiseFault_fault (c : Cause) (info : Word) (s : State) :
    (raiseFault c info s).fault = true := by
  cases h : s.fault <;> simp [raiseFault, h]

/-- A second raise records nothing (R155). -/
@[simp] theorem raiseFault_twice (c c' : Cause) (info info' : Word) (s : State) :
    raiseFault c info (raiseFault c' info' s) = raiseFault c' info' s :=
  raiseFault_faulted _ _ (raiseFault_fault _ _ _)

section RaiseFault

variable (c : Cause) (info : Word) (s : State)

@[simp] theorem raiseFault_fg : (raiseFault c info s).fg = s.fg := by
  unfold raiseFault; split <;> rfl
@[simp] theorem raiseFault_bg : (raiseFault c info s).bg = s.bg := by
  unfold raiseFault; split <;> rfl
@[simp] theorem raiseFault_target : (raiseFault c info s).target = s.target := by
  unfold raiseFault; split <;> rfl
@[simp] theorem raiseFault_palLen : (raiseFault c info s).palLen = s.palLen := by
  unfold raiseFault; split <;> rfl
@[simp] theorem raiseFault_mask : (raiseFault c info s).mask = s.mask := by
  unfold raiseFault; split <;> rfl
@[simp] theorem raiseFault_bitmap : (raiseFault c info s).bitmap = s.bitmap := by
  unfold raiseFault; split <;> rfl
@[simp] theorem raiseFault_score : (raiseFault c info s).score = s.score := by
  unfold raiseFault; split <;> rfl
@[simp] theorem raiseFault_index : (raiseFault c info s).index = s.index := by
  unfold raiseFault; split <;> rfl
@[simp] theorem raiseFault_acc0 : (raiseFault c info s).acc0 = s.acc0 := by
  unfold raiseFault; split <;> rfl
@[simp] theorem raiseFault_acc1 : (raiseFault c info s).acc1 = s.acc1 := by
  unfold raiseFault; split <;> rfl
@[simp] theorem raiseFault_mem : (raiseFault c info s).mem = s.mem := by
  unfold raiseFault; split <;> rfl
@[simp] theorem raiseFault_epoch : (raiseFault c info s).epoch = s.epoch := by
  unfold raiseFault; split <;> rfl
@[simp] theorem raiseFault_host : (raiseFault c info s).host = s.host := by
  unfold raiseFault; split <;> rfl

end RaiseFault

theorem causeCode_ne_zero (c : Cause) : causeCode c ≠ 0#4 := by cases c <;> decide

theorem causeCode_le (c : Cause) : (causeCode c).toNat ≤ 8 := by cases c <;> decide

/-! ### The scan of MATCH -/

/-- What the loop of R140 answers, from any point of it on: if `best` is the lowest nearest entry
below j, the answer is the lowest nearest entry below j + k. -/
theorem scanNearest_spec (dist : Nat → Nat) (k j best : Nat) (hb : best < j)
    (hmin : ∀ x, x < j → dist best ≤ dist x) (hlow : ∀ x, x < best → dist best < dist x) :
    scanNearest dist k j best (dist best) < j + k ∧
      (∀ x, x < j + k → dist (scanNearest dist k j best (dist best)) ≤ dist x) ∧
      ∀ x, x < scanNearest dist k j best (dist best) →
        dist (scanNearest dist k j best (dist best)) < dist x := by
  induction k generalizing j best with
  | zero => exact ⟨hb, hmin, hlow⟩
  | succ k ih =>
    rw [show j + (k + 1) = j + 1 + k by omega, scanNearest]
    split
    · rename_i hlt
      refine ih (j + 1) j (by omega) (fun x hx => ?_) fun x hx => lt_of_lt_of_le hlt (hmin x hx)
      rcases Nat.lt_succ_iff_lt_or_eq.1 hx with hx | rfl
      · exact le_of_lt (lt_of_lt_of_le hlt (hmin x hx))
      · exact le_rfl
    · rename_i hge
      refine ih (j + 1) best (by omega) (fun x hx => ?_) hlow
      rcases Nat.lt_succ_iff_lt_or_eq.1 hx with hx | rfl
      · exact hmin x hx
      · exact Nat.le_of_not_lt hge

/-- `nearest` is the lowest index of a nearest entry (R140). -/
theorem nearest_spec (dist : Nat → Nat) {n : Nat} (hn : 0 < n) :
    nearest dist n < n ∧ (∀ x, x < n → dist (nearest dist n) ≤ dist x) ∧
      ∀ x, x < nearest dist n → dist (nearest dist n) < dist x := by
  have h := scanNearest_spec dist (n - 1) 1 0 (by omega)
    (fun x hx => by rw [show x = 0 by omega]) (fun x hx => by omega)
  rwa [show 1 + (n - 1) = n by omega] at h

/-! ### The cases of the operations that can fault -/

theorem execDivide_legal (g : AccSel) {d : Nat} (s : State) (h : d ≤ 256) :
    execDivide g d s =
      .next (setAccOf g (accOfChans fun k => divChan (recip d) (accChan (accOf g s) k)) s) :=
  if_neg (Nat.not_lt.2 h)

theorem execDivide_range (g : AccSel) {d : Nat} (s : State) (h : 256 < d) :
    execDivide g d s = .next (raiseFault .divRange (encode (.divide g d)) s) :=
  if_pos h

theorem execMatch_empty {s : State} (h : s.palLen.toNat = 0) :
    execMatch s = .next (raiseFault .palEmpty (encode .matchPalette) s) :=
  if_pos h

theorem execMatch_long {s : State} (h : s.palLen.toNat > Config.palDepth) :
    execMatch s = .next (raiseFault .palRange (encode .matchPalette) s) := by
  rw [execMatch, if_neg (by omega), if_pos h]

theorem execMatch_legal {s : State} (h0 : s.palLen.toNat ≠ 0)
    (h1 : s.palLen.toNat ≤ Config.palDepth) :
    execMatch s = .next (s.setIndex (BitVec.ofNat 32 (nearest (targetDist s) s.palLen.toNat))) := by
  rw [execMatch, if_neg h0, if_neg (by omega)]

/-! ### The meanings -/

/-- Everything a command can do to a state: write the result registers or the accumulators of its own
kind, or raise a fault. -/
inductive CommandEffect (s : State) : State → Prop where
  | score (v : Word) (h : v.toNat ≤ 12484800) : CommandEffect s (s.setScore v)
  | bitmap (v : Mask64) : CommandEffect s (s.setBitmap v)
  | accs (u v : Acc) : CommandEffect s ((s.setAcc0 u).setAcc1 v)
  | acc (g : AccSel) (v : Acc) : CommandEffect s (setAccOf g v s)
  | index (v : Word) (h : v.toNat < Config.palDepth) : CommandEffect s (s.setIndex v)
  | fault (c : Cause) (info : Word) : CommandEffect s (raiseFault c info s)

theorem scoreTotal_le (m : Mask64) (s : State) : scoreTotal m s ≤ 12484800 :=
  pixelSum_le_const (c := 195075) fun _ _ => dist3_le _ _

/-- Every operation answers a next state, and it is one of the effects above. -/
theorem exec_effect (i : Instr) (s : State) : ∃ t, exec i s = .next t ∧ CommandEffect s t := by
  cases i with
  | score m =>
    refine ⟨_, rfl, .score _ ?_⟩
    rw [BitVec.toNat_ofNat]
    exact le_trans (Nat.mod_le _ _) (scoreTotal_le _ _)
  | synth => exact ⟨_, rfl, .bitmap _⟩
  | extract m => exact ⟨_, rfl, .accs _ _⟩
  | divide g d =>
    by_cases h : d > 256
    · exact ⟨_, execDivide_range g s h, .fault _ _⟩
    · exact ⟨_, execDivide_legal g s (Nat.le_of_not_lt h), .acc _ _⟩
  | matchPalette =>
    by_cases h0 : s.palLen.toNat = 0
    · exact ⟨_, execMatch_empty h0, .fault _ _⟩
    · by_cases h1 : s.palLen.toNat > Config.palDepth
      · exact ⟨_, execMatch_long h1, .fault _ _⟩
      · refine ⟨_, execMatch_legal h0 (Nat.le_of_not_lt h1), .index _ ?_⟩
        have := (nearest_spec (targetDist s) (Nat.pos_of_ne_zero h0)).1
        rw [BitVec.toNat_ofNat]
        exact lt_of_le_of_lt (Nat.mod_le _ _) (by omega)

/-- Every command word answers a next state, and it is one of the effects above. -/
theorem execute_effect (w : Word) (s : State) :
    ∃ t, execute w s = .next t ∧ CommandEffect s t := by
  unfold execute
  split
  · exact exec_effect _ _
  · exact ⟨_, rfl, .fault _ _⟩

section CommandEffect

variable {s t : State} (h : CommandEffect s t)

include h

/-- No command writes what R42 names, nor the arrays, nor the host's side. -/
theorem commandEffect_keeps :
    t.fg = s.fg ∧ t.bg = s.bg ∧ t.target = s.target ∧ t.palLen = s.palLen ∧ t.mask = s.mask ∧
      t.mem = s.mem ∧ t.epoch = s.epoch ∧ t.host = s.host := by
  cases h with
  | acc g v => cases g <;> simp [setAccOf]
  | _ => simp

end CommandEffect

end Sys2Proof.Machine
end

