-- ==== Sys2Proof/Laws/Bus.lean ====
section
/-!
SUPPORT. Everything a transaction can do, said once: the map's locations, `hostRead`, `hostWrite`,
`perform` and `step`.
-/

namespace Sys2Proof.Machine

/-- A mapped location at an aligned address is where the map puts it. -/
theorem locAddrNat_of_locateNat {n : Nat} {l : Loc} (hn : n % 4 = 0) (h : locateNat n = some l) :
    locAddrNat l = n := by
  unfold locateNat at h
  by_cases h0 : n < 0x040
  · rw [if_pos h0] at h
    simpa using List.find?_some h
  · rw [if_neg h0] at h
    by_cases h1 : 0x040 ≤ n ∧ n < 0x050
    · rw [dif_pos h1] at h
      cases h
      simp only [locAddrNat]
      omega
    rw [dif_neg h1] at h
    by_cases h2 : 0x050 ≤ n ∧ n < 0x060
    · rw [dif_pos h2] at h
      cases h
      simp only [locAddrNat]
      omega
    rw [dif_neg h2] at h
    by_cases h3 : 0x080 ≤ n ∧ n < 0x0C0
    · rw [dif_pos h3] at h
      cases h
      simp only [locAddrNat]
      omega
    rw [dif_neg h3] at h
    by_cases h4 : 0x100 ≤ n ∧ n < 0x200
    · rw [dif_pos h4] at h
      cases h
      simp only [locAddrNat, pixAddr]
      omega
    rw [dif_neg h4] at h
    by_cases h5 : 0x400 ≤ n ∧ n < 0x400 + 4 * Config.palDepth
    · rw [dif_pos h5] at h
      cases h
      simp only [locAddrNat, palAddr]
      omega
    rw [dif_neg h5] at h
    by_cases h6 : 0x800 ≤ n ∧ n < 0xC04
    · rw [dif_pos h6] at h
      cases h
      simp only [locAddrNat]
      omega
    rw [dif_neg h6] at h
    cases h

/-- Everything a write of a data location can do. -/
inductive StoreEffect (l : Loc) (data : Word) (s : State) : State → Prop where
  | fg : StoreEffect l data s (s.setFg data)
  | bg : StoreEffect l data s (s.setBg data)
  | target : StoreEffect l data s (s.setTarget data)
  | palLen : StoreEffect l data s (s.setPalLen data)
  | mask (v : Mask64) : StoreEffect l data s (s.setMask v)
  | acc (g : AccSel) (v : Acc) : StoreEffect l data s (setAccOf g v s)
  | array (hlo : inArrays (locAddrNat l)) (hhi : inArrays (locAddrNat l + 3)) :
      StoreEffect l data s (s.storeWord (locAddrNat l) data)
  | fault (c : Cause) (info : Word) : StoreEffect l data s (raiseFault c info s)

theorem writeLoc_effect {l : Loc} (data : Word) (s : State) (h : locAccess l = .readWrite) :
    StoreEffect l data s (writeLoc l data s) := by
  cases l with
  | fg => exact .fg
  | bg => exact .bg
  | target => exact .target
  | palLen => exact .palLen
  | maskLo => exact .mask _
  | maskHi => exact .mask _
  | acc g k => exact .acc _ _
  | maskB w =>
    simp only [writeLoc, writeMaskB]
    split
    · exact .mask _
    · exact .fault _ _
  | pix i =>
    refine .array (.inl ?_) (.inl ?_) <;> simp only [locAddrNat, pixAddr] <;> omega
  | pal j =>
    refine .array (.inr ?_) (.inr ?_) <;> simp only [locAddrNat, palAddr] <;> omega
  | _ => simp [locAccess] at h

/-- Everything `HostWrite` can do. -/
inductive WriteEffect (a : Addr) (data : Word) (s : State) : State → Prop where
  | ignored (h : s.fault = true) : WriteEffect a data s s
  | fault (h : s.fault = false) (c : Cause) (info : Word) :
      WriteEffect a data s (enterFault c info s)
  | store (h : s.fault = false) (l : Loc) (ha : locAddrNat l = a.toNat) (t : State)
      (ht : StoreEffect l data s t) : WriteEffect a data s t
  | command (h : s.fault = false) (ha : a = 0x004#12) (t : State) (ht : CommandEffect s t) :
      WriteEffect a data s t

theorem hostWrite_effect (a : Addr) (data : Word) (s : State) :
    ∃ t, hostWrite a data s = .next t ∧ WriteEffect a data s t := by
  unfold hostWrite
  split
  · rename_i h
    exact ⟨_, rfl, .ignored h⟩
  rename_i h
  have hf : s.fault = false := by simpa using h
  split
  · rename_i hal
    have hn : a.toNat % 4 = 0 := by simpa [aligned] using hal
    split
    · rename_i l hl
      have hloc := locAddrNat_of_locateNat hn hl
      unfold writeMapped
      split
      · exact ⟨_, rfl, raiseFault_clear _ _ hf ▸ .fault hf _ _⟩
      · rename_i hacc
        have h4 : locAddrNat l = 4 := by cases l <;> simp_all [locAccess, locAddrNat]
        have ha : a = 0x004#12 := by
          apply BitVec.eq_of_toNat_eq
          rw [← hloc, h4]
          rfl
        obtain ⟨t, ht, he⟩ := execute_effect data s
        exact ⟨t, ht, .command hf ha t he⟩
      · rename_i hacc
        exact ⟨_, rfl, .store hf l hloc _ (writeLoc_effect data s hacc)⟩
    · exact ⟨_, rfl, raiseFault_clear _ _ hf ▸ .fault hf _ _⟩
  · exact ⟨_, rfl, raiseFault_clear _ _ hf ▸ .fault hf _ _⟩

/-- What `HostRead` does to the state: nothing, or it raises one fault. -/
theorem hostRead_effect (a : Addr) (s : State) :
    (hostRead a s).1 = s ∨ ∃ c info, (hostRead a s).1 = raiseFault c info s := by
  unfold hostRead
  split
  · split
    · exact .inl rfl
    · exact .inr ⟨_, _, rfl⟩
  · exact .inr ⟨_, _, rfl⟩

/-- A step with nothing in the host's list is idle; otherwise it performs the first event. -/
theorem step_of_nil {s : State} (h : s.host.script = []) : step s = .next s := by
  simp [step, fetch, h]

theorem step_of_cons {s : State} {e : HostEvent} {es : List HostEvent}
    (h : s.host.script = e :: es) : step s = perform e (s.setScript es) := by
  simp [step, fetch, h]

end Sys2Proof.Machine
end

