-- ==== Sys2Proof/Machine/Notation.lean ====
section
/-!
DEFINITION. The host notation: what a line of a host program sends to the port (spec 30_encoding.md
R78, R79), and a run of a program (70_reset_and_hazards.md R186).
-/

namespace Sys2Proof.Machine

/-- Where a `wr` or `rd` line points: a name of R51 or a byte address (R78). -/
inductive Place where
  | loc (l : Loc)
  | addr (a : Addr)
deriving DecidableEq, Repr

/-- `addr(<loc>)` (R78). -/
def placeAddr : Place → Addr
  | .loc l => locAddr l
  | .addr a => a

/-- The lines of R78 and the pseudo-instructions of R79.  A Color literal is given as the word
`color r g b a`; `rd <loc> -> <value>` sends what `rd <loc>` sends (log entry 15). -/
inductive Line where
  /-- `wr <loc>, <value>` -/
  | wr (p : Place) (v : Word)
  /-- `rd <loc>` -/
  | rd (p : Place)
  /-- `score m`, `score b` -/
  | score (m : MaskSel)
  /-- `synth` -/
  | synth
  /-- `extract m`, `extract b` -/
  | extract (m : MaskSel)
  /-- `div acc0, #d`, `div acc1, #d`, d in 0..511 (R78).  A greater d is no line of the notation;
  DESIGN CHOICE: it sends the word whose divisor field is d mod 512 (log entry 17). -/
  | div (g : AccSel) (d : Nat)
  /-- `match` -/
  | matchPalette
  /-- `cmd <word>`: any word, legal or not -/
  | cmd (w : Word)
  /-- `ldpix <i>, (r, g, b, a)` -/
  | ldpix (i : Fin 64) (c : Word)
  /-- `fillpix <lo>..<hi>, (r, g, b, a)`, for i = lo, lo+1, ..., hi (R79).  With lo above hi, which
  R79 leaves open, it sends no transaction: DESIGN CHOICE (log entry 16). -/
  | fillpix (lo hi : Fin 64) (c : Word)
  /-- `ldpal <j>, (r, g, b, a)` -/
  | ldpal (j : Fin Config.palDepth) (c : Word)
  /-- `ldfg (r, g, b, a)` -/
  | ldfg (c : Word)
  /-- `ldbg (r, g, b, a)` -/
  | ldbg (c : Word)
  /-- `ldtarget (r, g, b, a)` -/
  | ldtarget (c : Word)
  /-- `ldmask <v64>` -/
  | ldmask (v : Mask64)
  /-- `rdmask` -/
  | rdmask
  /-- `rdbitmap` -/
  | rdbitmap
  /-- `rdacc0`, `rdacc1` -/
  | rdacc (g : AccSel)
deriving DecidableEq, Repr

/-- `HostWrite(addr(<loc>), v)`. -/
def wrEvent (l : Loc) (v : Word) : HostEvent := .write (locAddr l) v

/-- `HostRead(addr(<loc>))`. -/
def rdEvent (l : Loc) : HostEvent := .read (locAddr l)

/-- The transactions of a line, in order (R78, R79).  The model's choices: `fillpix` with lo above hi
sends none (log entry 16), `div` with d above 511 sends the word of d mod 512 (log entry 17). -/
def lineEvents : Line → List HostEvent
  | .wr p v => [.write (placeAddr p) v]
  | .rd p => [.read (placeAddr p)]
  | .score m => [wrEvent .cmd (encode (.score m))]
  | .synth => [wrEvent .cmd (encode .synth)]
  | .extract m => [wrEvent .cmd (encode (.extract m))]
  | .div g d => [wrEvent .cmd (encode (.divide g d))]
  | .matchPalette => [wrEvent .cmd (encode .matchPalette)]
  | .cmd w => [wrEvent .cmd w]
  | .ldpix i c => [wrEvent (.pix i) c]
  | .fillpix lo hi c =>
    (List.range' lo.val (hi.val + 1 - lo.val)).map fun i => .write (BitVec.ofNat 12 (pixAddr i)) c
  | .ldpal j c => [wrEvent (.pal j) c]
  | .ldfg c => [wrEvent .fg c]
  | .ldbg c => [wrEvent .bg c]
  | .ldtarget c => [wrEvent .target c]
  | .ldmask v => [wrEvent .maskLo (loWord v), wrEvent .maskHi (hiWord v)]
  | .rdmask => [rdEvent .maskLo, rdEvent .maskHi]
  | .rdbitmap => [rdEvent .bitmapLo, rdEvent .bitmapHi]
  | .rdacc g => [rdEvent (.acc g 0), rdEvent (.acc g 1), rdEvent (.acc g 2), rdEvent (.acc g 3)]

/-- The transactions of a host program, top to bottom (R78). -/
def programEvents (p : List Line) : List HostEvent := p.flatMap lineEvents

/-- The machine right after the reset event with a host program still to be performed (R186). -/
def State.startOf (p : List Line) : State := State.reset.setScript (programEvents p)

end Sys2Proof.Machine
end

