-- ==== Sys2Proof/Certificates/Slice0/Obligations.lean ====
section
/-!
DEFINITION. The statements for the provers, from the numbered rules of spec/.
-/

open Sys2Proof Sys2Proof.Machine

/-! ### Encoding -/

/-- The words of the spec's own list of command words (95_test_vectors.md section 2.6, after R73). -/
def Obligations.SpecWordsDecode : Prop :=
  decode 0x00000001#32 = .ok (.score .mask) ∧
  decode 0x00000101#32 = .ok (.score .bitmap) ∧
  decode 0x00000002#32 = .ok .synth ∧
  decode 0x00000003#32 = .ok (.extract .mask) ∧
  decode 0x00000103#32 = .ok (.extract .bitmap) ∧
  decode 0x00180004#32 = .ok (.divide .acc0 24) ∧
  decode 0x01FF0104#32 = .ok (.divide .acc1 511) ∧
  decode 0x00000005#32 = .ok .matchPalette

/-- Decoding the word of a well-formed command gives the command back (R71 to R73). -/
def Obligations.DecodeOfEncode : Prop :=
  ∀ i : Instr, i.wf = true → decode (encode i) = .ok i

/-- A word that decodes is the word of the command it decodes to: no word has a second spelling, no
bit is dropped (R70, R73). -/
def Obligations.EncodeOfDecode : Prop :=
  ∀ (w : Word) (i : Instr), decode w = .ok i → i.wf = true ∧ encode i = w

/-- The match and mask values of R73 select exactly the words that decode to each operation. -/
def Obligations.DecodeByMatchAndMask : Prop :=
  ∀ w : Word,
    ((∃ m, decode w = .ok (.score m)) ↔ w &&& 0xFFFFFEFF#32 = 0x00000001#32) ∧
    (decode w = .ok .synth ↔ w &&& 0xFFFFFFFF#32 = 0x00000002#32) ∧
    ((∃ m, decode w = .ok (.extract m)) ↔ w &&& 0xFFFFFEFF#32 = 0x00000003#32) ∧
    ((∃ g d, decode w = .ok (.divide g d)) ↔ w &&& 0xFE00FEFF#32 = 0x00000004#32) ∧
    (decode w = .ok .matchPalette ↔ w &&& 0xFFFFFFFF#32 = 0x00000005#32)

/-- 1030 words decode to an operation (R73). -/
def Obligations.CountOfLegalWords : Prop :=
  {w : Word | ∃ i, decode w = .ok i}.ncard = 1030

/-- An illegal word, by the list of R75, raises ILLEGAL_CMD with the word and changes nothing else; a
word outside that list performs an operation; the all-zero and the all-ones word are illegal. -/
def Obligations.IllegalCommandFaults : Prop :=
  let op : Word → Nat := fun w => (w.extractLsb' 0 8).toNat
  let illegal : Word → Prop := fun w =>
    (op w = 0 ∨ (0x06 ≤ op w ∧ op w ≤ 0xFF)) ∨ w.extractLsb' 9 7 ≠ 0#7 ∨
    w.extractLsb' 25 7 ≠ 0#7 ∨
    (w.extractLsb' 16 9 ≠ 0#9 ∧ (op w = 1 ∨ op w = 2 ∨ op w = 3 ∨ op w = 5)) ∨
    (w.getLsbD 8 = true ∧ (op w = 2 ∨ op w = 5))
  (∀ (s : State) (w : Word), s.fault = false → illegal w →
    hostWrite 0x004#12 w s = .next { s with fault := true, cause := 1#4, finfo := w }) ∧
  (∀ (s : State) (w : Word), s.fault = false → ¬ illegal w →
    ∃ i, decode w = .ok i ∧ hostWrite 0x004#12 w s = exec i s) ∧
  illegal 0x00000000#32 ∧ illegal 0xFFFFFFFF#32

/-! ### Steps -/

/-- A step whose event writes a legal command word to `CMD` of a CORE that has not faulted is `exec` of
the decoded operation, in the state whose list is the rest of the host's list (R24, R70, R74). -/
def Obligations.StepRunsDecodedCommand : Prop :=
  ∀ (s : State) (w : Word) (i : Instr) (rest : List HostEvent), s.fault = false →
    s.host.script = .write 0x004#12 w :: rest → decode w = .ok i →
    step s = exec i (s.setScript rest)

/-- What a step does with each kind of event, and that with none it is idle.  The model's choices: the
idle step (log entry 2), where the word a read returns is held (`answer`, log entry 1), and that
`resetEvent` keeps the host's remaining list (log entry 11). -/
def Obligations.StepPerformsFirstEvent : Prop :=
  ∀ s : State,
    (s.host.script = [] → step s = .next s) ∧
    (∀ rest, s.host.script = .reset :: rest → step s = .next (resetEvent (s.setScript rest))) ∧
    (∀ a rest, s.host.script = .read a :: rest →
      step s = .next ((hostRead a (s.setScript rest)).1.answer (hostRead a (s.setScript rest)).2)) ∧
    (∀ a d rest, s.host.script = .write a d :: rest → step s = hostWrite a d (s.setScript rest))

/-- Every transaction completes: a step always answers a next state, with exactly the event performed
gone from the host's list (R184, R185 of transactions).  The model's choices: with an empty list the
step is the idle one (log entry 2), and a reset event keeps the rest of the list (log entry 11). -/
def Obligations.EveryTransactionCompletes : Prop :=
  ∀ s : State, ∃ t, step s = .next t ∧ t.host.script = s.host.script.tail

/-- A finite list of events is performed to its end, in as many steps as it has events, from any state
(R184, R186 of transactions).  The list may hold reset events; that it goes on to its end after one is
the model's choice (log entry 11). -/
def Obligations.RunPerformsWholeList : Prop :=
  ∀ s : State, ∃ t : State,
    Sys2Proof.core.run s.host.script.length s = .next t ∧ t.host.script = []

/-! ### The register space -/

/-- A misaligned transaction raises BUS_MISALIGNED (7) with the address, whatever the address maps to,
and moves no data (R56). -/
def Obligations.MisalignedFaults : Prop :=
  ∀ (s : State) (a : Addr) (d : Word), s.fault = false → a.extractLsb' 0 2 ≠ 0#2 →
    hostWrite a d s = .next { s with fault := true, cause := 7#4, finfo := a.setWidth 32 } ∧
    hostRead a s = ({ s with fault := true, cause := 7#4, finfo := a.setWidth 32 }, 0#32)

/-- A transaction with an unmapped location, by the list of R58, raises BUS_UNMAPPED (6). -/
def Obligations.UnmappedFaults : Prop :=
  ∀ (s : State) (a : Addr) (d : Word), s.fault = false → a.toNat % 4 = 0 →
    (a.toNat = 0x024 ∨ (0x060 ≤ a.toNat ∧ a.toNat ≤ 0x07C) ∨ (0x0C0 ≤ a.toNat ∧ a.toNat ≤ 0x0FC) ∨
      (0x200 ≤ a.toNat ∧ a.toNat ≤ 0x3FC) ∨
      (0x400 + 4 * Config.palDepth ≤ a.toNat ∧ a.toNat ≤ 0x7FC) ∨
      (0xC04 ≤ a.toNat ∧ a.toNat ≤ 0xFFC)) →
    hostWrite a d s = .next { s with fault := true, cause := 6#4, finfo := a.setWidth 32 } ∧
    hostRead a s = ({ s with fault := true, cause := 6#4, finfo := a.setWidth 32 }, 0#32)

/-- A write of a read-only location, by the list of R59 with the addresses of R51, raises BUS_READONLY
(8) and changes nothing else; a read of `CMD` gives 0 and raises nothing. -/
def Obligations.ReadOnlyWritesFault : Prop :=
  (∀ (s : State) (a : Addr) (d : Word), s.fault = false → a.toNat % 4 = 0 →
    (a = 0x000#12 ∨ a = 0x008#12 ∨ a = 0x00C#12 ∨ a = 0x010#12 ∨ a = 0x030#12 ∨ a = 0x034#12 ∨
      a = 0x038#12 ∨ a = 0x03C#12 ∨ (0x800 ≤ a.toNat ∧ a.toNat ≤ 0xC00)) →
    hostWrite a d s = .next { s with fault := true, cause := 8#4, finfo := a.setWidth 32 }) ∧
  ∀ s : State, hostRead 0x004#12 s = (s, 0#32)

/-- Every mapped location has an aligned address of its own, and every aligned address outside the
list of R58 is a mapped location's (R51). -/
def Obligations.AddressMapIsExact : Prop :=
  (∀ l : Loc, aligned (locAddr l) = true ∧ locate (locAddr l) = some l) ∧
  ∀ a : Addr, aligned a = true →
    (locate a = none ↔
      (a.toNat = 0x024 ∨ (0x060 ≤ a.toNat ∧ a.toNat ≤ 0x07C) ∨
        (0x0C0 ≤ a.toNat ∧ a.toNat ≤ 0x0FC) ∨ (0x200 ≤ a.toNat ∧ a.toNat ≤ 0x3FC) ∨
        (0x400 + 4 * Config.palDepth ≤ a.toNat ∧ a.toNat ≤ 0x7FC) ∨
        (0xC04 ≤ a.toNat ∧ a.toNat ≤ 0xFFC))) ∧
    ∀ l, locate a = some l → locAddr l = a

/-- Every legal read, address by address, returns what R52 lists and changes nothing, faulted or
not. -/
def Obligations.LegalReadsReturn : Prop :=
  ∀ s : State,
    hostRead 0x000#12 s = (s, 0x43480100#32) ∧ hostRead 0x004#12 s = (s, 0#32) ∧
    hostRead 0x008#12 s = (s, if s.fault then 1#32 else 0#32) ∧
    hostRead 0x00C#12 s = (s, s.cause.setWidth 32) ∧
    hostRead 0x010#12 s = (s, s.finfo) ∧ hostRead 0x014#12 s = (s, s.fg) ∧
    hostRead 0x018#12 s = (s, s.bg) ∧ hostRead 0x01C#12 s = (s, s.target) ∧
    hostRead 0x020#12 s = (s, s.palLen) ∧
    hostRead 0x028#12 s = (s, s.mask.extractLsb' 0 32) ∧
    hostRead 0x02C#12 s = (s, s.mask.extractLsb' 32 32) ∧
    hostRead 0x030#12 s = (s, s.bitmap.extractLsb' 0 32) ∧
    hostRead 0x034#12 s = (s, s.bitmap.extractLsb' 32 32) ∧
    hostRead 0x038#12 s = (s, s.score) ∧ hostRead 0x03C#12 s = (s, s.index) ∧
    (∀ k : Fin 4, hostRead (BitVec.ofNat 12 (0x040 + 4 * k.val)) s = (s, accChan s.acc0 k)) ∧
    (∀ k : Fin 4, hostRead (BitVec.ofNat 12 (0x050 + 4 * k.val)) s = (s, accChan s.acc1 k)) ∧
    (∀ w, w < 16 → ∃ v, hostRead (BitVec.ofNat 12 (0x080 + 4 * w)) s = (s, v) ∧
      ∀ k, k < 4 → v.extractLsb' (8 * k) 8 = if s.mask.getLsbD (4 * w + k) then 0xFF#8 else 0x00#8) ∧
    (∀ i, i < 64 → hostRead (BitVec.ofNat 12 (0x100 + 4 * i)) s = (s, pix s i)) ∧
    (∀ j, j < 256 → hostRead (BitVec.ofNat 12 (0x400 + 4 * j)) s = (s, pal s j)) ∧
    (∀ d, d < 257 → hostRead (BitVec.ofNat 12 (0x800 + 4 * d)) s =
      (s, BitVec.ofNat 32 (if d = 0 then 0 else 32768 / d)))

/-- Every legal write of a data register or array entry, address by address, completes and stores what
R53 lists and nothing else; an array store changes the four bytes of its own word only. -/
def Obligations.LegalWritesStore : Prop :=
  ∀ (s : State) (d : Word), s.fault = false →
    hostWrite 0x014#12 d s = .next { s with fg := d } ∧
    hostWrite 0x018#12 d s = .next { s with bg := d } ∧
    hostWrite 0x01C#12 d s = .next { s with target := d } ∧
    hostWrite 0x020#12 d s = .next { s with palLen := d } ∧
    (∃ v, hostWrite 0x028#12 d s = .next { s with mask := v } ∧ v.extractLsb' 0 32 = d ∧
      v.extractLsb' 32 32 = s.mask.extractLsb' 32 32) ∧
    (∃ v, hostWrite 0x02C#12 d s = .next { s with mask := v } ∧ v.extractLsb' 32 32 = d ∧
      v.extractLsb' 0 32 = s.mask.extractLsb' 0 32) ∧
    (∀ k : Fin 4, ∃ v, hostWrite (BitVec.ofNat 12 (0x040 + 4 * k.val)) d s =
      .next { s with acc0 := v } ∧ ∀ j, accChan v j = if j = k then d else accChan s.acc0 j) ∧
    (∀ k : Fin 4, ∃ v, hostWrite (BitVec.ofNat 12 (0x050 + 4 * k.val)) d s =
      .next { s with acc1 := v } ∧ ∀ j, accChan v j = if j = k then d else accChan s.acc1 j) ∧
    (∀ i, i < 64 → ∃ m, hostWrite (BitVec.ofNat 12 (0x100 + 4 * i)) d s =
      .next { s with mem := m } ∧ pix { s with mem := m } i = d ∧
      ∀ b, b < 0x100 + 4 * i ∨ 0x100 + 4 * i + 4 ≤ b → byteAt { s with mem := m } b = byteAt s b) ∧
    (∀ j, j < 256 → ∃ m, hostWrite (BitVec.ofNat 12 (0x400 + 4 * j)) d s =
      .next { s with mem := m } ∧ pal { s with mem := m } j = d ∧
      ∀ b, b < 0x400 + 4 * j ∨ 0x400 + 4 * j + 4 ≤ b → byteAt { s with mem := m } b = byteAt s b)

/-- A read returns the value of the latest write to the same location, for every read-write location;
for `MASKB` when the data is well formed (R32, R60). -/
def Obligations.WriteThenRead : Prop :=
  ∀ (s : State) (l : Loc) (d : Word), s.fault = false → locAccess l = .readWrite →
    (∀ w, l = .maskB w → ∀ k, k < 4 →
      d.extractLsb' (8 * k) 8 = 0x00#8 ∨ d.extractLsb' (8 * k) 8 = 0xFF#8) →
    ∃ t, hostWrite (locAddr l) d s = .next t ∧ hostRead (locAddr l) t = (t, d)

/-- A write of a read-write location leaves what every other location reads unchanged; the locations
that are views of `MASK` count as one. -/
def Obligations.WriteLeavesOtherLocations : Prop :=
  ∀ (s t : State) (l r : Loc) (d : Word), s.fault = false → locAccess l = .readWrite →
    (∀ w, l = .maskB w → maskBDataOk d = true) → r ≠ l →
    (¬ ((l = .maskLo ∨ l = .maskHi ∨ ∃ w, l = .maskB w) ∧
      (r = .maskLo ∨ r = .maskHi ∨ ∃ w, r = .maskB w))) →
    hostWrite (locAddr l) d s = .next t → hostRead (locAddr r) t = (t, (hostRead (locAddr r) s).2)

/-! ### The two mask representations -/

/-- R32: a read of `MASKB[w]` gives the lanes of pixels 4w to 4w+3; a write whose lanes are all well
formed changes those four bits and nothing else; any other write changes no bit and raises
MASK_FORM (5) with the data. -/
def Obligations.MaskByteWindow : Prop :=
  ∀ (s : State) (w : Nat) (v : Word), w < 16 →
    (∃ r, hostRead (BitVec.ofNat 12 (0x080 + 4 * w)) s = (s, r) ∧ ∀ k, k < 4 →
      r.extractLsb' (8 * k) 8 = if s.mask.getLsbD (4 * w + k) then 0xFF#8 else 0x00#8) ∧
    (s.fault = false →
      (∀ k, k < 4 → v.extractLsb' (8 * k) 8 = 0x00#8 ∨ v.extractLsb' (8 * k) 8 = 0xFF#8) →
      ∃ m, hostWrite (BitVec.ofNat 12 (0x080 + 4 * w)) v s = .next { s with mask := m } ∧
        (∀ k, k < 4 → m.getLsbD (4 * w + k) = (v.extractLsb' (8 * k) 8 == 0xFF#8)) ∧
        ∀ p, p < 64 → p / 4 ≠ w → m.getLsbD p = s.mask.getLsbD p) ∧
    (s.fault = false →
      (∃ k, k < 4 ∧ v.extractLsb' (8 * k) 8 ≠ 0x00#8 ∧ v.extractLsb' (8 * k) 8 ≠ 0xFF#8) →
      hostWrite (BitVec.ofNat 12 (0x080 + 4 * w)) v s =
        .next { s with fault := true, cause := 5#4, finfo := v })

/-- The two mask representations convert into each other exactly (R43).  The second clause speaks of
every lane: that a lane which is neither 0x00 nor 0xFF packs to 0, where R43 does not define `pack`,
is the model's choice (log entry 18). -/
def Obligations.MaskFormsConvert : Prop :=
  (∀ (m : Mask64) (i : Nat), i < 64 → unpackLane m i = if m.getLsbD i then 0xFF#8 else 0x00#8) ∧
  (∀ (lanes : Nat → Byte) (i : Nat), i < 64 →
    (packLanes lanes).getLsbD i = (lanes i == 0xFF#8)) ∧
  (∀ m : Mask64, packLanes (unpackLane m) = m) ∧
  ∀ lanes : Nat → Byte, (∀ i, i < 64 → lanes i = 0x00#8 ∨ lanes i = 0xFF#8) →
    ∀ i, i < 64 → unpackLane (packLanes lanes) i = lanes i

/-- Pixel p's mask bit in all three views the host has (R55). -/
def Obligations.PixelBitInEveryView : Prop :=
  ∀ (s : State) (p : Nat), p < 64 →
    ((hostRead (if p < 32 then 0x028#12 else 0x02C#12) s).2.getLsbD (p % 32) = s.mask.getLsbD p) ∧
    ((hostRead (BitVec.ofNat 12 (0x080 + 4 * (p / 4))) s).2.extractLsb' (8 * (p % 4)) 8 =
      if s.mask.getLsbD p then 0xFF#8 else 0x00#8) ∧
    ((hostRead (if p < 32 then 0x030#12 else 0x034#12) s).2.getLsbD (p % 32) = s.bitmap.getLsbD p)

/-! ### Faults -/

/-- Raising a fault in a CORE that has not faulted does exactly what R154 lists; a read that raises one
returns 0. -/
def Obligations.FaultEntryIsExact : Prop :=
  ∀ (s : State) (c : Cause) (info : Word), s.fault = false →
    raiseFault c info s = { s with fault := true, cause := causeCode c, finfo := info } ∧
    faultPin (raiseFault c info s) = true ∧ 1 ≤ (causeCode c).toNat ∧ (causeCode c).toNat ≤ 8 ∧
    ∀ a, (hostRead a s).1.fault = true → (hostRead a s).2 = 0#32

/-- The faulted state (R155): every write is ignored, every legal read is served as in R52, every other
read returns 0 and changes nothing; so the first fault is kept, and the state is no acceptable end of a
run. -/
def Obligations.FaultedStateHolds : Prop :=
  ∀ s : State, s.fault = true →
    (∀ a d, hostWrite a d s = .next s) ∧
    (∀ l, hostRead (locAddr l) s = (s, readLoc l s)) ∧
    (∀ a, (a.toNat % 4 ≠ 0 ∨ ∀ l, locAddr l ≠ a) → hostRead a s = (s, 0#32)) ∧
    ¬ acceptable s

/-- Only the reset event leaves the faulted state; every other step leaves the whole CORE as it is
(R155, R160). -/
def Obligations.OnlyResetLeavesFault : Prop :=
  ∀ s t : State, s.fault = true → step s = .next t → (∀ rest, s.host.script ≠ .reset :: rest) →
    coreOf t = coreOf s

/-- A transaction that raises a fault changes nothing but the three fault registers (R152, R154). -/
def Obligations.FaultingTransactionIsPrecise : Prop :=
  ∀ s t : State, s.fault = false → step s = .next t → t.fault = true →
    ∃ (c : Cause) (info : Word),
      coreOf t = coreOf { s with fault := true, cause := causeCode c, finfo := info }

/-- The priority examples of R156 and 95_test_vectors.md B11, B12: misaligned before read-only and
before unmapped; a reserved bit before the divisor. -/
def Obligations.FaultPriorityExamples : Prop :=
  ∀ s : State, s.fault = false →
    hostWrite 0x002#12 1#32 s = .next { s with fault := true, cause := 7#4, finfo := 0x002#32 } ∧
    hostRead 0x025#12 s = ({ s with fault := true, cause := 7#4, finfo := 0x025#32 }, 0#32) ∧
    hostWrite 0x004#12 0x032C0004#32 s =
      .next { s with fault := true, cause := 1#4, finfo := 0x032C0004#32 } ∧
    hostWrite 0x004#12 0x012C0004#32 s =
      .next { s with fault := true, cause := 2#4, finfo := 0x012C0004#32 }

/-! ### Reset, the invariant, and rules over all steps -/

/-- The state a run starts from (R41): every scalar register 0, no fault, `fault_o` 0. -/
def Obligations.ResetStateRegisters : Prop :=
  State.reset.fault = false ∧ State.reset.cause = 0#4 ∧ State.reset.finfo = 0#32 ∧
  State.reset.fg = 0#32 ∧ State.reset.bg = 0#32 ∧ State.reset.target = 0#32 ∧
  State.reset.palLen = 0#32 ∧ State.reset.mask = 0#64 ∧ State.reset.bitmap = 0#64 ∧
  State.reset.score = 0#32 ∧ State.reset.index = 0#32 ∧
  (∀ k, accChan State.reset.acc0 k = 0#32) ∧ (∀ k, accChan State.reset.acc1 k = 0#32) ∧
  faultPin State.reset = false ∧ readLoc .id State.reset = 0x43480100#32 ∧
  readLoc .cmd State.reset = 0#32

/-- The reset event from any state (R41, R180): every scalar register 0 and the fault cleared. -/
def Obligations.ResetEventRegisters : Prop :=
  ∀ (s : State) (rest : List HostEvent), s.host.script = .reset :: rest →
    ∃ t, step s = .next t ∧ t.fault = false ∧ t.cause = 0#4 ∧ t.finfo = 0#32 ∧ t.fg = 0#32 ∧
      t.bg = 0#32 ∧ t.target = 0#32 ∧ t.palLen = 0#32 ∧ t.mask = 0#64 ∧ t.bitmap = 0#64 ∧
      t.score = 0#32 ∧ t.index = 0#32 ∧ (∀ k, accChan t.acc0 k = 0#32) ∧
      (∀ k, accChan t.acc1 k = 0#32) ∧ faultPin t = false

/-- No step, a reset among them, changes what the Reciprocal Table and `ID` read (R39, R181). -/
def Obligations.ConstantsNeverChange : Prop :=
  ∀ s t : State, step s = .next t →
    (∀ d, hostRead (locAddr (.recip d)) t = (t, (hostRead (locAddr (.recip d)) s).2)) ∧
    hostRead (locAddr .id) t = (t, (hostRead (locAddr .id) s).2)

/-- The invariant holds at reset. -/
def Obligations.ResetMeetsInvariant : Prop := Inv State.reset

/-- Every step keeps the invariant: the arrays stay canonical and inside `PIX` and `PAL`; `CAUSE.CODE`
is a legal code, non-zero exactly when `STATUS.FAULT` is 1; `FINFO` is 0 before the first fault;
`SCORE` and `INDEX` stay in range (R26, R27, R34, R35, R37, R38, R151). -/
def Obligations.StepKeepsInvariant : Prop :=
  ∀ s t : State, Inv s → step s = .next t → Inv t

/-- Between resets a byte of the arrays changes only in a write transaction to its own word: not by a
command, not by a read, not by a write elsewhere, and an entry never written reads the same every time
(R42, R188, U1). -/
def Obligations.ArraysChangeOnlyByTheirWrites : Prop :=
  ∀ (s t : State) (b : Nat), step s = .next t → (∀ rest, s.host.script ≠ .reset :: rest) →
    (∀ a d rest, s.host.script = .write a d :: rest → b < a.toNat ∨ a.toNat + 4 ≤ b) →
    byteAt t b = byteAt s b

/-- The result registers, and the accumulators unless the host writes one of their own words, change
only in a `CMD` write or at reset (R20, R22, R36). -/
def Obligations.ResultsChangeOnlyByCommands : Prop :=
  ∀ s t : State, step s = .next t → (∀ rest, s.host.script ≠ .reset :: rest) →
    (∀ w rest, s.host.script ≠ .write 0x004#12 w :: rest) →
    t.score = s.score ∧ t.bitmap = s.bitmap ∧ t.index = s.index ∧
    ((∀ a d rest, s.host.script = .write a d :: rest → a.toNat < 0x040 ∨ 0x060 ≤ a.toNat) →
      t.acc0 = s.acc0 ∧ t.acc1 = s.acc1)

/-- No command changes `PIX`, `PAL`, `FG`, `BG`, `TARGET`, `PAL_LEN` or `MASK` (R42), nor the host's side
(the model's own, log entry 1). -/
def Obligations.CommandsKeepOperands : Prop :=
  ∀ (i : Instr) (s t : State), exec i s = .next t →
    t.fg = s.fg ∧ t.bg = s.bg ∧ t.target = s.target ∧ t.palLen = s.palLen ∧ t.mask = s.mask ∧
    t.host = s.host ∧ (∀ k, pix t k = pix s k) ∧ (∀ j, pal t j = pal s j) ∧
    ∀ b, byteAt t b = byteAt s b

/-- The frame of each operation: SCORE changes `SCORE` alone, SYNTH `BITMAP` alone, EXTRACT the two
accumulators alone; DIVIDE the selected accumulator alone, or the fault registers alone; MATCH `INDEX`
alone, or the fault registers alone.  No operation stores a byte. -/
def Obligations.OperationFrames : Prop :=
  ∀ s t : State,
    (∀ m, exec (.score m) s = .next t →
      t = { s with score := t.score } ∧ ∀ b, byteAt t b = byteAt s b) ∧
    (exec .synth s = .next t → t = { s with bitmap := t.bitmap } ∧ ∀ b, byteAt t b = byteAt s b) ∧
    (∀ m, exec (.extract m) s = .next t →
      t = { s with acc0 := t.acc0, acc1 := t.acc1 } ∧ ∀ b, byteAt t b = byteAt s b) ∧
    (∀ d, exec (.divide .acc0 d) s = .next t →
      (t = { s with acc0 := t.acc0 } ∨
        t = { s with fault := true, cause := t.cause, finfo := t.finfo }) ∧
      ∀ b, byteAt t b = byteAt s b) ∧
    (∀ d, exec (.divide .acc1 d) s = .next t →
      (t = { s with acc1 := t.acc1 } ∨
        t = { s with fault := true, cause := t.cause, finfo := t.finfo }) ∧
      ∀ b, byteAt t b = byteAt s b) ∧
    (exec .matchPalette s = .next t →
      (t = { s with index := t.index } ∨
        t = { s with fault := true, cause := t.cause, finfo := t.finfo }) ∧
      ∀ b, byteAt t b = byteAt s b)

/-- Repeating SCORE, SYNTH, EXTRACT or MATCH changes nothing more (R57). -/
def Obligations.RepeatedCommandsAreIdempotent : Prop :=
  ∀ (i : Instr) (s : State), (∀ g d, i ≠ .divide g d) →
    ∃ t, exec i s = .next t ∧ exec i t = .next t

/-- What the CORE does, and the word a read returns, depend on the CORE's own state and the
transaction alone, not on the rest of the host's list or on earlier answers (R19, R22).  That the
answers are held latest first (log entry 1) and that a reset event keeps the host's list and answers
(log entry 11) are the model's choices. -/
def Obligations.CoreIgnoresHostSide : Prop :=
  ∀ (s s' : State) (e : HostEvent), coreOf s = coreOf s' →
    ∃ t t', perform e s = .next t ∧ perform e s' = .next t' ∧ coreOf t = coreOf t' ∧
      ∃ new, t.host = ⟨s.host.script, new ++ s.host.answers⟩ ∧
        t'.host = ⟨s'.host.script, new ++ s'.host.answers⟩

/-! ### SCORE -/

/-- SCORE completes in every state and writes the sum of R90: over the 64 pixels and the channels R, G
and B, the squared difference to the endpoint the mask selects. -/
def Obligations.ScoreWritesSum : Prop :=
  ∀ (sel : MaskSel) (s : State), ∃ v : Word,
    exec (.score sel) s = .next { s with score := v } ∧
    (v.toNat : Int) = ∑ i ∈ Finset.range 64, ∑ k ∈ Finset.range 3,
      ((ch (if (match sel with | .mask => s.mask | .bitmap => s.bitmap).getLsbD i
          then s.fg else s.bg) k : Int) - (ch (pix s i) k : Int)) ^ 2

/-- The score is the sum of independent per-pixel costs chosen by the mask bits (R94). -/
def Obligations.ScoreIsSumOfPixelCosts : Prop :=
  ∀ (sel : MaskSel) (s : State), ∃ t, exec (.score sel) s = .next t ∧
    t.score.toNat = ∑ i ∈ Finset.range 64,
      (if (maskOf sel s).getLsbD i then dist3 s.fg (pix s i) else dist3 s.bg (pix s i))

/-- The score's range (R91): at most 192 × 65025 = 12484800, below 2^24, so bits [31:24] of `SCORE`
read 0; the register holds the exact total. -/
def Obligations.ScoreRange : Prop :=
  ∀ (sel : MaskSel) (s : State),
    (∀ c p k, absdiff (ch c k) (ch p k) ^ 2 ≤ 65025) ∧
    scoreTotal (maskOf sel s) s ≤ 12484800 ∧
    ∃ t, exec (.score sel) s = .next t ∧ t.score.toNat = scoreTotal (maskOf sel s) s ∧
      t.score.toNat < 2 ^ 24 ∧ (hostRead 0x038#12 t).2.extractLsb' 24 8 = 0#8

/-- The mask has no influence on the score when `FG` and `BG` agree in R, G and B (R90 corner case e). -/
def Obligations.EqualEndpointsIgnoreMask : Prop :=
  ∀ (s : State) (m : Mask64) (sel sel' : MaskSel), sameRgb s.fg s.bg →
    ∃ t t', exec (.score sel) s = .next t ∧ exec (.score sel') { s with mask := m } = .next t' ∧
      t.score = t'.score

/-- Alpha never enters SCORE, SYNTH or MATCH (R13, R92): two states that agree but for the alpha
channels of the endpoints, the target, the pixels and the palette get the same results. -/
def Obligations.AlphaNeverEnters : Prop :=
  ∀ s s' : State, sameRgb s.fg s'.fg → sameRgb s.bg s'.bg → sameRgb s.target s'.target →
    (∀ i, i < 64 → sameRgb (pix s i) (pix s' i)) →
    (∀ j, j < 256 → sameRgb (pal s j) (pal s' j)) →
    s.mask = s'.mask → s.bitmap = s'.bitmap → s.palLen = s'.palLen →
    (∀ sel, ∃ t t', exec (.score sel) s = .next t ∧ exec (.score sel) s' = .next t' ∧
      t.score = t'.score) ∧
    (∃ t t', exec .synth s = .next t ∧ exec .synth s' = .next t' ∧ t.bitmap = t'.bitmap) ∧
    (1 ≤ s.palLen.toNat → s.palLen.toNat ≤ 256 →
      ∃ t t', exec .matchPalette s = .next t ∧ exec .matchPalette s' = .next t' ∧
        t.index = t'.index)

/-! ### SYNTH -/

/-- SYNTH completes in every state and sets bit i of `BITMAP` exactly when pixel i is strictly nearer
to `FG` than to `BG`, by the squared RGB distance written out (R100, R103). -/
def Obligations.SynthSetsStrictlyNearer : Prop :=
  ∀ s : State, ∃ b : Mask64, exec .synth s = .next { s with bitmap := b } ∧
    ∀ i, i < 64 → (b.getLsbD i = true ↔
      ∑ k ∈ Finset.range 3, ((ch (pix s i) k : Int) - (ch s.bg k : Int)) ^ 2 >
        ∑ k ∈ Finset.range 3, ((ch (pix s i) k : Int) - (ch s.fg k : Int)) ^ 2)

/-- SYNTH minimises SCORE (R101): the score of its own bitmap is the sum of the smaller costs, is at
most the score of every mask, and equals it exactly for the masks that differ from the bitmap on tied
pixels only; tied pixels have bit 0. -/
def Obligations.SynthMinimisesScore : Prop :=
  ∀ s : State, ∃ t u, exec .synth s = .next t ∧ exec (.score .bitmap) t = .next u ∧
    u.score.toNat = ∑ i ∈ Finset.range 64, min (dist3 s.bg (pix s i)) (dist3 s.fg (pix s i)) ∧
    (∀ i, i < 64 → dist3 s.bg (pix s i) = dist3 s.fg (pix s i) → t.bitmap.getLsbD i = false) ∧
    ∀ m : Mask64, ∃ v, exec (.score .mask) { s with mask := m } = .next v ∧
      u.score.toNat ≤ v.score.toNat ∧
      (u.score.toNat = v.score.toNat ↔ ∀ i, i < 64 →
        dist3 s.bg (pix s i) = dist3 s.fg (pix s i) ∨ m.getLsbD i = t.bitmap.getLsbD i)

/-- Swapping `FG` and `BG` complements the bit of every pixel that does not tie and leaves tied bits 0;
with `FG` and `BG` equal in R, G and B the bitmap is 0 (R100 corner cases b and h). -/
def Obligations.SynthSwapAndTies : Prop :=
  ∀ s : State, ∃ t u, exec .synth s = .next t ∧
    exec .synth { s with fg := s.bg, bg := s.fg } = .next u ∧
    (∀ i, i < 64 → (dist3 (pix s i) s.bg ≠ dist3 (pix s i) s.fg →
        u.bitmap.getLsbD i = !t.bitmap.getLsbD i) ∧
      (dist3 (pix s i) s.bg = dist3 (pix s i) s.fg →
        u.bitmap.getLsbD i = false ∧ t.bitmap.getLsbD i = false)) ∧
    (sameRgb s.fg s.bg → t.bitmap = 0#64)

/-! ### EXTRACT -/

/-- EXTRACT completes in every state and puts into channel k of `ACC0` and `ACC1` the sum of channel k
over the pixels whose mask bit is 0 and 1; all four channels, and the old values do not enter (R110). -/
def Obligations.ExtractWritesGroupSums : Prop :=
  ∀ (sel : MaskSel) (s : State), ∃ u v : Acc,
    exec (.extract sel) s = .next { s with acc0 := u, acc1 := v } ∧
    ∀ k : Fin 4,
      (accChan u k).toInt = ∑ i ∈ Finset.range 64,
        (if (match sel with | .mask => s.mask | .bitmap => s.bitmap).getLsbD i then 0
          else (ch (pix s i) k.val : Int)) ∧
      (accChan v k).toInt = ∑ i ∈ Finset.range 64,
        (if (match sel with | .mask => s.mask | .bitmap => s.bitmap).getLsbD i
          then (ch (pix s i) k.val : Int) else 0)

/-- Conservation (R111): per channel the two accumulators add up to the sum of the block, for every
mask. -/
def Obligations.ExtractConserves : Prop :=
  ∀ (sel : MaskSel) (s : State), ∃ t, exec (.extract sel) s = .next t ∧
    ∀ k : Fin 4, (accChan t.acc0 k).toInt + (accChan t.acc1 k).toInt =
      ∑ i ∈ Finset.range 64, (ch (pix s i) k.val : Int)

/-- The range of EXTRACT's sums (R112): at least 0, at most 64 × 255, and at most 255 times the group's
pixel count, which is the Divider's validity condition. -/
def Obligations.ExtractRange : Prop :=
  ∀ (sel : MaskSel) (s : State), ∃ t, exec (.extract sel) s = .next t ∧
    groupCount (maskOf sel s) true + groupCount (maskOf sel s) false = 64 ∧
    ∀ k : Fin 4,
      (accChan t.acc0 k).toNat ≤ 0x3FC0 ∧ (accChan t.acc1 k).toNat ≤ 0x3FC0 ∧
      0 ≤ (accChan t.acc0 k).toInt ∧ 0 ≤ (accChan t.acc1 k).toInt ∧
      (accChan t.acc0 k).toInt ≤ 255 * (groupCount (maskOf sel s) false : Int) ∧
      (accChan t.acc1 k).toInt ≤ 255 * (groupCount (maskOf sel s) true : Int)

/-! ### DIVIDE -/

/-- DIVIDE by a divisor of 0 to 256 completes: each channel of the selected accumulator becomes the
floor of (s × RECIP[d] + 16384) / 32768, exactly, as a signed channel; nothing else changes (R120,
R122, R128). -/
def Obligations.DivideWritesQuotients : Prop :=
  ∀ (d : Nat) (s : State), d ≤ 256 →
    (∃ v, exec (.divide .acc0 d) s = .next { s with acc0 := v } ∧ ∀ k : Fin 4,
      (accChan v k).toInt = ((accChan s.acc0 k).toInt *
        (if d = 0 then 0 else 32768 / (d : Int)) + 16384) / 32768) ∧
    (∃ v, exec (.divide .acc1 d) s = .next { s with acc1 := v } ∧ ∀ k : Fin 4,
      (accChan v k).toInt = ((accChan s.acc1 k).toInt *
        (if d = 0 then 0 else 32768 / (d : Int)) + 16384) / 32768)

/-- A divisor of 257 to 511 raises DIV_RANGE (2) with the command word, before anything is read or
written (R120, R151, R152). -/
def Obligations.DivideRangeFaults : Prop :=
  ∀ (d : Nat) (s : State), 256 < d → d < 512 → s.fault = false →
    exec (.divide .acc0 d) s = .next { s with
      fault := true, cause := 2#4, finfo := BitVec.ofNat 32 (0x00000004 + 0x10000 * d) } ∧
    exec (.divide .acc1 d) s = .next { s with
      fault := true, cause := 2#4, finfo := BitVec.ofNat 32 (0x00000104 + 0x10000 * d) }

/-- Divisor zero (R124): `RECIP[0]` is 0, no fault, and 0 in all four channels of the selected
accumulator, for any contents. -/
def Obligations.DivideByZeroGivesZero : Prop :=
  recip 0 = 0 ∧ ∀ (g : AccSel) (s : State), ∃ t, exec (.divide g 0) s = .next t ∧
    t.fault = s.fault ∧ ∀ k, accChan (accOf g t) k = 0#32

/-- The widths inside the Divider (R123): the product and the biased product fit 48 bits signed, and
the quotient lies between min(s, 0) and max(s, 0), so the write-back never overflows; for the sums
EXTRACT produces the biased product is below 2^29. -/
def Obligations.DivideNeverOverflows : Prop :=
  ∀ (g : AccSel) (d : Nat) (s : State), d ≤ 256 → ∃ t, exec (.divide g d) s = .next t ∧
    ∀ k, ∃ x y p : Int, x = (accChan (accOf g s) k).toInt ∧ y = (accChan (accOf g t) k).toInt ∧
      p = x * (recip d : Int) + 16384 ∧ |x * (recip d : Int)| ≤ 2 ^ 46 ∧ |p| < 2 ^ 47 ∧
      y = p / 32768 ∧ min x 0 ≤ y ∧ y ≤ max x 0 ∧ (0 ≤ x → x ≤ 16320 → p < 2 ^ 29)

/-- The exact cases (R127): for d = 2^j, j in 1..8, the result is round-half-up of s/d for every s,
negative or not; for d = 1 the accumulator is unchanged. -/
def Obligations.DividePowersOfTwoExact : Prop :=
  (∀ j, j ≤ 8 → recip (2 ^ j) = 2 ^ (15 - j)) ∧
  (∀ (g : AccSel) (j : Nat) (s : State), 1 ≤ j → j ≤ 8 →
    ∃ t, exec (.divide g (2 ^ j)) s = .next t ∧ ∀ k,
      (accChan (accOf g t) k).toInt = ((accChan (accOf g s) k).toInt + 2 ^ (j - 1)) / 2 ^ j ∧
      (accChan (accOf g t) k).toInt = roundHalfUp (accChan (accOf g s) k).toInt (2 ^ j)) ∧
  ∀ (g : AccSel) (s : State), exec (.divide g 1) s = .next s

/-- The quotient of a valid sum (0 ≤ s ≤ 255 d) never exceeds round-half-up and is at most 255, for
every divisor (R125); for divisors up to 74 it is within 1 of the true quotient (R126), and at
divisor 75 that bound fails at s = 19052 (R125). -/
def Obligations.DivideAccuracy : Prop :=
  (∀ (g : AccSel) (d : Nat) (s : State) (k : Fin 4), 1 ≤ d → d ≤ 256 →
    0 ≤ (accChan (accOf g s) k).toInt → (accChan (accOf g s) k).toInt ≤ 255 * d →
    ∃ t, exec (.divide g d) s = .next t ∧ 0 ≤ (accChan (accOf g t) k).toInt ∧
      (accChan (accOf g t) k).toInt ≤ roundHalfUp (accChan (accOf g s) k).toInt d ∧
      (accChan (accOf g t) k).toInt ≤ 255 ∧
      (d ≤ 74 →
        |(accChan (accOf g t) k).toInt * d - (accChan (accOf g s) k).toInt| ≤ d)) ∧
  divQuot (recip 75) 19052 = 253 ∧ |(253 : Int) * 75 - 19052| > 75

/-- The Reciprocal Table (R121, R122): entry 0 is 0; entry d is the floor of 32768 / d; the checks R122
gives on the list of its values.  What the third and the last clause say above 256, where the table
has no entry, is the model's choice (log entry 19). -/
def Obligations.ReciprocalTableEntries : Prop :=
  recip 0 = 0 ∧
  (∀ d, 1 ≤ d → d ≤ 256 → recip d * d ≤ 32768 ∧ 32768 < (recip d + 1) * d) ∧
  (∀ d e, 1 ≤ d → d ≤ e → recip e ≤ recip d) ∧
  ((List.range 257).map recip).sum = 200574 ∧
  recip 1 = 32768 ∧ ∀ d, d ≠ 1 → recip d < 2 ^ 15

/-! ### MATCH -/

/-- MATCH with a legal palette length completes and writes the lowest index of a nearest entry (R140). -/
def Obligations.MatchFindsLowestNearest : Prop :=
  ∀ s : State, 1 ≤ s.palLen.toNat → s.palLen.toNat ≤ 256 →
    ∃ j, exec .matchPalette s = .next { s with index := BitVec.ofNat 32 j } ∧
      j < s.palLen.toNat ∧
      (∀ x, x < s.palLen.toNat → dist3 s.target (pal s j) ≤ dist3 s.target (pal s x)) ∧
      ∀ x, x < j → dist3 s.target (pal s j) < dist3 s.target (pal s x)

/-- An empty palette raises PAL_EMPTY (3), one longer than the storage PAL_RANGE (4), with the command
word; `INDEX` keeps its value (R140, R151). -/
def Obligations.MatchLengthFaults : Prop :=
  ∀ s : State, s.fault = false →
    (s.palLen = 0#32 → exec .matchPalette s =
      .next { s with fault := true, cause := 3#4, finfo := 0x00000005#32 }) ∧
    (256 < s.palLen.toNat → exec .matchPalette s =
      .next { s with fault := true, cause := 4#4, finfo := 0x00000005#32 })

/-- The range of `INDEX` after a MATCH that did not fault (R141): at most PAL_LEN - 1, at most 255, so
bits [31:8] read 0. -/
def Obligations.MatchIndexRange : Prop :=
  ∀ s : State, 1 ≤ s.palLen.toNat → s.palLen.toNat ≤ 256 →
    ∃ t, exec .matchPalette s = .next t ∧ t.index.toNat ≤ s.palLen.toNat - 1 ∧
      s.palLen.toNat - 1 ≤ 255 ∧ (hostRead 0x03C#12 t).2.extractLsb' 8 24 = 0#24

/-- A single-entry palette always gives index 0, and entries at `PAL_LEN` and above are not read,
whatever they hold (R140 corner cases b and e). -/
def Obligations.MatchReadsOnlyThePalette : Prop :=
  (∀ s : State, s.palLen = 1#32 → exec .matchPalette s = .next { s with index := 0#32 }) ∧
  ∀ s s' : State, s.palLen = s'.palLen → s.target = s'.target →
    1 ≤ s.palLen.toNat → s.palLen.toNat ≤ 256 →
    (∀ j, j < s.palLen.toNat → pal s j = pal s' j) →
    ∃ t t', exec .matchPalette s = .next t ∧ exec .matchPalette s' = .next t' ∧
      t.index = t'.index

/-! ### Host notation -/

/-- Every line of the host notation sends the transactions R78 and R79 list for it, in their order, and
the lines of a program follow each other; a named place stands for its address of R51.  A Color
literal is given as its word; `div` is stated for R78's divisors 0 to 511 and `fillpix` for lo up to
hi (outside them the model's choices of log entries 16 and 17 are not stated). -/
def Obligations.NotationSendsSpecWords : Prop :=
  lineEvents (.score .mask) = [.write 0x004#12 0x00000001#32] ∧
  lineEvents (.score .bitmap) = [.write 0x004#12 0x00000101#32] ∧
  lineEvents .synth = [.write 0x004#12 0x00000002#32] ∧
  lineEvents (.extract .mask) = [.write 0x004#12 0x00000003#32] ∧
  lineEvents (.extract .bitmap) = [.write 0x004#12 0x00000103#32] ∧
  lineEvents .matchPalette = [.write 0x004#12 0x00000005#32] ∧
  (∀ d, d < 512 →
    lineEvents (.div .acc0 d) = [.write 0x004#12 (BitVec.ofNat 32 (0x00000004 + 0x10000 * d))] ∧
    lineEvents (.div .acc1 d) = [.write 0x004#12 (BitVec.ofNat 32 (0x00000104 + 0x10000 * d))]) ∧
  (∀ p v, lineEvents (.wr p v) = [.write (placeAddr p) v]) ∧
  (∀ p, lineEvents (.rd p) = [.read (placeAddr p)]) ∧
  (∀ w, lineEvents (.cmd w) = [.write 0x004#12 w]) ∧
  (∀ (i : Fin 64) c, lineEvents (.ldpix i c) = [.write (BitVec.ofNat 12 (0x100 + 4 * i.val)) c]) ∧
  (∀ (lo hi : Fin 64) c, lo ≤ hi →
    (lineEvents (.fillpix lo hi c)).length = hi.val - lo.val + 1 ∧
    ∀ k, k ≤ hi.val - lo.val → (lineEvents (.fillpix lo hi c))[k]? =
      some (.write (BitVec.ofNat 12 (0x100 + 4 * (lo.val + k))) c)) ∧
  (∀ (j : Fin Config.palDepth) c,
    lineEvents (.ldpal j c) = [.write (BitVec.ofNat 12 (0x400 + 4 * j.val)) c]) ∧
  (∀ c, lineEvents (.ldfg c) = [.write 0x014#12 c] ∧ lineEvents (.ldbg c) = [.write 0x018#12 c] ∧
    lineEvents (.ldtarget c) = [.write 0x01C#12 c]) ∧
  (∀ v : Mask64, lineEvents (.ldmask v) =
    [.write 0x028#12 (v.extractLsb' 0 32), .write 0x02C#12 (v.extractLsb' 32 32)]) ∧
  lineEvents .rdmask = [.read 0x028#12, .read 0x02C#12] ∧
  lineEvents .rdbitmap = [.read 0x030#12, .read 0x034#12] ∧
  lineEvents (.rdacc .acc0) = [.read 0x040#12, .read 0x044#12, .read 0x048#12, .read 0x04C#12] ∧
  lineEvents (.rdacc .acc1) = [.read 0x050#12, .read 0x054#12, .read 0x058#12, .read 0x05C#12] ∧
  (programEvents [] = [] ∧
    ∀ l p, programEvents (l :: p) = lineEvents l ++ programEvents p) ∧
  (∀ a, placeAddr (.addr a) = a) ∧
  [Loc.id, .cmd, .status, .cause, .finfo, .fg, .bg, .target, .palLen, .maskLo, .maskHi, .bitmapLo,
      .bitmapHi, .score, .index].map (fun l => placeAddr (.loc l)) =
    [0x000#12, 0x004#12, 0x008#12, 0x00C#12, 0x010#12, 0x014#12, 0x018#12, 0x01C#12, 0x020#12,
      0x028#12, 0x02C#12, 0x030#12, 0x034#12, 0x038#12, 0x03C#12] ∧
  (∀ k : Fin 4, placeAddr (.loc (.acc .acc0 k)) = BitVec.ofNat 12 (0x040 + 4 * k.val) ∧
    placeAddr (.loc (.acc .acc1 k)) = BitVec.ofNat 12 (0x050 + 4 * k.val)) ∧
  (∀ w : Fin 16, placeAddr (.loc (.maskB w)) = BitVec.ofNat 12 (0x080 + 4 * w.val)) ∧
  (∀ i : Fin 64, placeAddr (.loc (.pix i)) = BitVec.ofNat 12 (0x100 + 4 * i.val)) ∧
  (∀ j : Fin Config.palDepth, placeAddr (.loc (.pal j)) = BitVec.ofNat 12 (0x400 + 4 * j.val)) ∧
  ∀ d : Fin 257, placeAddr (.loc (.recip d)) = BitVec.ofNat 12 (0x800 + 4 * d.val)
end

