-- ==== Sys2Proof/Laws/PerInstr.lean ====
section
/-!
SUPPORT. Facts about every command as syntax, one lemma per constructor.
-/

namespace Sys2Proof.Laws

/-- Format C as the table gives it (spec 30_encoding.md R71, R73): in a command's word both reserved
fields are 0, the opcode is one of 1 to 5, and the fields the operation does not use are 0. -/
def Format.Statement (i : Instr) : Prop :=
  rsv0Field (encode i) = 0 ∧ rsv1Field (encode i) = 0 ∧
    match i with
    | .score m => opField (encode i) = 1 ∧ immField (encode i) = 0 ∧
        selField (encode i) = decide (m = .bitmap)
    | .synth => opField (encode i) = 2 ∧ immField (encode i) = 0 ∧ selField (encode i) = false
    | .extract m => opField (encode i) = 3 ∧ immField (encode i) = 0 ∧
        selField (encode i) = decide (m = .bitmap)
    | .divide g d => opField (encode i) = 4 ∧ immField (encode i) = d % 512 ∧
        selField (encode i) = decide (g = .acc1)
    | .matchPalette => opField (encode i) = 5 ∧ immField (encode i) = 0 ∧
        selField (encode i) = false

theorem Format.score (m : MaskSel) : Format.Statement (.score m) := by
  cases m <;> exact ⟨by decide, by decide, by decide, by decide, by decide⟩

theorem Format.synth : Format.Statement .synth :=
  ⟨by decide, by decide, by decide, by decide, by decide⟩

theorem Format.extract (m : MaskSel) : Format.Statement (.extract m) := by
  cases m <;> exact ⟨by decide, by decide, by decide, by decide, by decide⟩

theorem Format.divide (g : AccSel) (d : Nat) : Format.Statement (.divide g d) := by
  have hd : d % 512 < 512 := Nat.mod_lt _ (by decide)
  generalize hx : d % 512 = x at hd
  have : ∀ b, b < 2 → rsv0Field (formatC 4 b d) = 0 ∧ rsv1Field (formatC 4 b d) = 0 ∧
      opField (formatC 4 b d) = 4 ∧ immField (formatC 4 b d) = x ∧
      selField (formatC 4 b d) = decide (b = 1) := by
    intro b hb
    simp only [formatC, hx, rsv0Field, rsv1Field, opField, immField, selField,
      BitVec.extractLsb'_toNat, BitVec.toNat_ofNat, Nat.shiftRight_eq_div_pow, BitVec.getLsbD_ofNat,
      Nat.testBit, Nat.one_and_eq_mod_two]
    refine ⟨by omega, by omega, by omega, by omega, ?_⟩
    have : b = 0 ∨ b = 1 := by omega
    rcases this with rfl | rfl <;> simp <;> omega
  cases g
  · obtain ⟨a, b, c, e, f⟩ := this 0 (by decide)
    exact ⟨a, b, c, e.trans hx.symm, f⟩
  · obtain ⟨a, b, c, e, f⟩ := this 1 (by decide)
    exact ⟨a, b, c, e.trans hx.symm, f⟩

theorem Format.matchPalette : Format.Statement .matchPalette :=
  ⟨by decide, by decide, by decide, by decide, by decide⟩

end Sys2Proof.Laws
end

