-- ==== Sys2Proof/Tests/Slice0.lean ====
section
/-!
SUPPORT. The model's own tests.  Every expected value is one the spec prints (95_test_vectors.md; the
list of 43_divide.md R122) or is worked out by hand from a rule; and for every obligation that has
hypotheses, a named witness that meets all of them together.
-/

namespace Sys2Proof.Tests

open Sys2Proof Sys2Proof.Machine

set_option Elab.async false

/-! ### Helpers -/

/-- The bytes of a block of 64 pixels. -/
def blockMem (f : Nat → Word) : Memory :=
  (List.range 64).flatMap fun i =>
    [(pixAddr i, wordByte (f i) 0), (pixAddr i + 1, wordByte (f i) 1),
      (pixAddr i + 2, wordByte (f i) 2), (pixAddr i + 3, wordByte (f i) 3)]

/-- The bytes of a palette. -/
def palMem (cs : List Word) : Memory :=
  cs.zipIdx.flatMap fun c =>
    [(palAddr c.2, wordByte c.1 0), (palAddr c.2 + 1, wordByte c.1 1),
      (palAddr c.2 + 2, wordByte c.1 2), (palAddr c.2 + 3, wordByte c.1 3)]

/-- The reset state with a pixel block and a color pair loaded. -/
def withBlock (f : Nat → Word) (fg bg : Word) : State :=
  { State.reset with mem := blockMem f, fg := fg, bg := bg }

/-- The reset state with a palette and a target loaded. -/
def withPalette (cs : List Word) (target : Word) : State :=
  { State.reset with mem := palMem cs, palLen := BitVec.ofNat 32 cs.length, target := target }

/-- Whether an outcome is a next state of which a check holds. -/
def nextIs (o : Host.Outcome State Fault Refusal) (p : State → Bool) : Bool :=
  match o with
  | .next t => p t
  | .fault _ => false
  | .refused _ => false

/-- A step that writes a word to an address. -/
def stepWrite (s : State) (a : Addr) (d : Word) : Host.Outcome State Fault Refusal :=
  step (s.setScript [.write a d])

/-- The block of vector S7 and E4: PIX[i] = (i, 2i, 255 - i, i). -/
def rampBlock (i : Nat) : Word :=
  color (BitVec.ofNat 8 i) (BitVec.ofNat 8 (2 * i)) (BitVec.ofNat 8 (255 - i)) (BitVec.ofNat 8 i)

/-- The three fault registers of a state. -/
def faultRegs (s : State) : Bool × BitVec 4 × Word := (s.fault, s.cause, s.finfo)

/-! ### Well-formedness: the one check, refused by an ill-formed term -/

theorem test_wf_refuses_divisor_512 : (Instr.divide .acc0 512).wf = false := by decide

theorem test_wf_accepts_divisor_511 : (Instr.divide .acc1 511).wf = true := by decide

/-! ### Words written out from R71 and R73, and words the decoder turns away (section 2.6) -/

theorem test_decode_divide_511 : decode 0x01FF0104#32 = .ok (.divide .acc1 511) := by decide

theorem test_decode_divide_256 : decode 0x01000004#32 = .ok (.divide .acc0 256) := by decide

theorem test_decode_score_imm : decode 0x00010001#32 = .error .unusedImm := by decide

theorem test_decode_score_bit9 : decode 0x00000201#32 = .error .reservedBits := by decide

theorem test_decode_synth_sel : decode 0x00000102#32 = .error .unusedSel := by decide

theorem test_decode_match_imm : decode 0x00010005#32 = .error .unusedImm := by decide

theorem test_decode_match_sel : decode 0x00000105#32 = .error .unusedSel := by decide

theorem test_decode_bit25_before_divisor : decode 0x032C0004#32 = .error .reservedBits := by decide

theorem test_decode_zero : decode 0x00000000#32 = .error .unassignedOp := by decide

theorem test_decode_six : decode 0x00000006#32 = .error .unassignedOp := by decide

theorem test_decode_ones : decode 0xFFFFFFFF#32 = .error .reservedBits := by decide

theorem test_encode_divide : encode (.divide .acc1 64) = 0x00400104#32 := by decide

theorem test_table_word_divide : decodeTableWord 32 0x00180004 = some (.divide .acc0 24) := by decide

/-- The first step after reset runs the word placed for it: DIVIDE by 300 raises DIV_RANGE. -/
theorem test_first_step_runs_word :
    nextIs (step (State.reset.withFetchWord 32 0x012C0004))
      (fun t => faultRegs t == (true, 2#4, 0x012C0004#32)) = true := by decide +kernel

/-! ### The Reciprocal Table -/

/-- R122's list, entries 0 to 31. -/
theorem test_recip_list_0 : (List.range' 0 32).map recip =
    [0, 32768, 16384, 10922, 8192, 6553, 5461, 4681, 4096, 3640, 3276, 2978, 2730, 2520,
    2340, 2184, 2048, 1927, 1820, 1724, 1638, 1560, 1489, 1424, 1365, 1310, 1260, 1213,
    1170, 1129, 1092, 1057] := by decide +kernel

/-- R122's list, entries 32 to 63. -/
theorem test_recip_list_1 : (List.range' 32 32).map recip =
    [1024, 992, 963, 936, 910, 885, 862, 840, 819, 799, 780, 762, 744, 728, 712, 697, 682,
    668, 655, 642, 630, 618, 606, 595, 585, 574, 564, 555, 546, 537, 528, 520] := by decide +kernel

/-- R122's list, entries 64 to 95. -/
theorem test_recip_list_2 : (List.range' 64 32).map recip =
    [512, 504, 496, 489, 481, 474, 468, 461, 455, 448, 442, 436, 431, 425, 420, 414, 409,
    404, 399, 394, 390, 385, 381, 376, 372, 368, 364, 360, 356, 352, 348, 344] := by decide +kernel

/-- R122's list, entries 96 to 127. -/
theorem test_recip_list_3 : (List.range' 96 32).map recip =
    [341, 337, 334, 330, 327, 324, 321, 318, 315, 312, 309, 306, 303, 300, 297, 295, 292,
    289, 287, 284, 282, 280, 277, 275, 273, 270, 268, 266, 264, 262, 260, 258] := by decide +kernel

/-- R122's list, entries 128 to 159. -/
theorem test_recip_list_4 : (List.range' 128 32).map recip =
    [256, 254, 252, 250, 248, 246, 244, 242, 240, 239, 237, 235, 234, 232, 230, 229, 227,
    225, 224, 222, 221, 219, 218, 217, 215, 214, 212, 211, 210, 208, 207, 206] := by decide +kernel

/-- R122's list, entries 160 to 191. -/
theorem test_recip_list_5 : (List.range' 160 32).map recip =
    [204, 203, 202, 201, 199, 198, 197, 196, 195, 193, 192, 191, 190, 189, 188, 187, 186,
    185, 184, 183, 182, 181, 180, 179, 178, 177, 176, 175, 174, 173, 172, 171] := by decide +kernel

/-- R122's list, entries 192 to 223. -/
theorem test_recip_list_6 : (List.range' 192 32).map recip =
    [170, 169, 168, 168, 167, 166, 165, 164, 163, 163, 162, 161, 160, 159, 159, 158, 157,
    156, 156, 155, 154, 153, 153, 152, 151, 151, 150, 149, 148, 148, 147, 146] := by decide +kernel

/-- R122's list, entries 224 to 255. -/
theorem test_recip_list_7 : (List.range' 224 32).map recip =
    [146, 145, 144, 144, 143, 143, 142, 141, 141, 140, 140, 139, 138, 138, 137, 137, 136,
    135, 135, 134, 134, 133, 133, 132, 132, 131, 131, 130, 130, 129, 129, 128] := by decide +kernel

/-- R122's list, entries 256 to 256. -/
theorem test_recip_list_8 : (List.range' 256 1).map recip =
    [128] := by decide +kernel

/-! ### One step of each operation -/

/-- S5: |100 - 200| = 100, not the wrapped 156. -/
theorem test_score_absolute :
    nextIs (stepWrite { withBlock (fun _ => color 100 0 0 0) (color 200 0 0 0) 0#32 with
        mask := 0xFFFFFFFFFFFFFFFF#64 } 0x004#12 0x00000001#32)
      (fun t => t.score == 640000#32) = true := by decide +kernel

/-- S7: the score of SYNTH's own bitmap, taken from `BITMAP`. -/
theorem test_score_bitmap_ramp :
    nextIs (stepWrite { withBlock rampBlock (color 48 96 207 0) (color 16 32 239 0) with
        bitmap := 0xFFFFFFFE00000000#64 } 0x004#12 0x00000101#32)
      (fun t => t.score == 32832#32) = true := by decide +kernel

/-- S7: pixel 32 ties and stays background; pixel 33 is bit 33. -/
theorem test_synth_ramp :
    nextIs (stepWrite (withBlock rampBlock (color 48 96 207 0) (color 16 32 239 0)) 0x004#12
        0x00000002#32)
      (fun t => t.bitmap == 0xFFFFFFFE00000000#64 && t.mask == 0#64) = true := by decide +kernel

/-- Y2: equal distances give background. -/
theorem test_synth_tie :
    nextIs (stepWrite (withBlock (fun _ => color 5 0 0 0) (color 10 0 0 0) 0#32) 0x004#12
        0x00000002#32)
      (fun t => t.bitmap == 0#64) = true := by decide +kernel

/-- E4a: even pixels foreground; alpha is summed; the old contents do not enter. -/
theorem test_extract_even_pixels :
    nextIs (stepWrite { withBlock rampBlock 0#32 0#32 with
        mask := 0x5555555555555555#64, acc0 := ⟨7#32, 7#32, 7#32, 7#32⟩ } 0x004#12 0x00000003#32)
      (fun t => t.acc0 == ⟨1024#32, 2048#32, 7136#32, 1024#32⟩ &&
        t.acc1 == ⟨992#32, 1984#32, 7168#32, 992#32⟩) = true := by decide +kernel

/-- E5: pixel 63 alone is foreground. -/
theorem test_extract_last_pixel :
    nextIs (stepWrite { withBlock (fun _ => color 255 255 255 255) 0#32 0#32 with
        bitmap := 0x8000000000000000#64 } 0x004#12 0x00000103#32)
      (fun t => t.acc0 == ⟨16065#32, 16065#32, 16065#32, 16065#32⟩ &&
        t.acc1 == ⟨255#32, 255#32, 255#32, 255#32⟩) = true := by decide +kernel

/-- The whole-register vector of section 2.4: (564, 720, 984, 6120) by 24. -/
theorem test_divide_by_24 :
    nextIs (stepWrite { State.reset with acc0 := ⟨564#32, 720#32, 984#32, 6120#32⟩ } 0x004#12
        0x00180004#32)
      (fun t => t.acc0 == ⟨23#32, 30#32, 41#32, 255#32⟩ && t.acc1 == Acc.zero) = true := by
  decide +kernel

/-- V17, V18, V27 and the smallest channel by 2: the shift rounds toward minus infinity. -/
theorem test_divide_negative :
    nextIs (stepWrite { State.reset with
        acc1 := ⟨0xFFFFFFFD#32, 0xFFFFFFFF#32, 7#32, 0x80000000#32⟩ } 0x004#12 0x00020104#32)
      (fun t => t.acc1 == ⟨0xFFFFFFFF#32, 0#32, 4#32, 0xC0000000#32⟩) = true := by decide +kernel

/-- M3a: the first of the two entries at distance 0; alpha is ignored. -/
theorem test_match_first_of_equal :
    nextIs (stepWrite (withPalette [color 0 0 0 0, color 10 0 0 0, color 5 0 0 9, color 5 0 0 1]
        (color 5 0 0 0)) 0x004#12 0x00000005#32)
      (fun t => t.index == 2#32 && !t.fault) = true := by decide +kernel

/-- M10: the entry at index `PAL_LEN` is not read. -/
theorem test_match_stops_at_length :
    nextIs (stepWrite { withPalette [color 0 0 0 0, color 255 255 255 0, color 10 10 10 0]
        (color 10 10 10 0) with palLen := 2#32 } 0x004#12 0x00000005#32)
      (fun t => t.index == 0#32) = true := by decide +kernel

/-! ### The port (section 2.7) -/

/-- B7: the byte-lane view of 0x000000A5. -/
theorem test_maskb_read :
    (hostRead 0x080#12 { State.reset with mask := 0xA5#64 }).2 = 0x00FF00FF#32 ∧
    (hostRead 0x084#12 { State.reset with mask := 0xA5#64 }).2 = 0xFF00FF00#32 ∧
    (hostRead 0x088#12 { State.reset with mask := 0xA5#64 }).2 = 0#32 := by decide +kernel

/-- B8: pixels 60 and 63. -/
theorem test_maskb_write :
    nextIs (stepWrite State.reset 0x0BC#12 0xFF0000FF#32)
      (fun t => t.mask == 0x9000000000000000#64) = true := by decide +kernel

/-- B10: a malformed lane changes no bit. -/
theorem test_maskb_malformed :
    nextIs (stepWrite { State.reset with mask := 0xF#64 } 0x080#12 0xFF00807F#32)
      (fun t => faultRegs t == (true, 5#4, 0xFF00807F#32) && t.mask == 0xF#64) = true := by
  decide +kernel

/-- B11: misaligned wins over read-only. -/
theorem test_write_misaligned :
    nextIs (stepWrite State.reset 0x002#12 1#32)
      (fun t => faultRegs t == (true, 7#4, 2#32)) = true := by decide +kernel

/-- B16: the table is read-only. -/
theorem test_write_recip :
    nextIs (stepWrite State.reset 0x808#12 0#32)
      (fun t => faultRegs t == (true, 8#4, 0x808#32)) = true := by decide +kernel

/-- B18: a read of the last word location answers 0 and faults. -/
theorem test_read_unmapped :
    nextIs (step (State.reset.setScript [.read 0xFFC#12]))
      (fun t => faultRegs t == (true, 6#4, 0xFFC#32) && t.host.answers == [0#32]) = true := by
  decide +kernel

/-- Section 2.4: `rd RECIP[3]` at 0x80C. -/
theorem test_read_recip :
    nextIs (step (State.reset.setScript [.read 0x80C#12]))
      (fun t => t.host.answers == [0x2AAA#32] && !t.fault) = true := by decide +kernel

/-- B4 on an array entry: what is written to PIX[63] is read back, all 32 bits. -/
theorem test_write_pix :
    nextIs (stepWrite State.reset 0x1FC#12 0xDEADBEEF#32)
      (fun t => pix t 63 == 0xDEADBEEF#32) = true := by decide +kernel

/-- B20: a faulted CORE ignores the write of FG. -/
theorem test_faulted_ignores_write :
    nextIs (stepWrite { State.reset with fault := true, cause := 8#4, finfo := 0x38#32 } 0x014#12 1#32)
      (fun t => t.fg == 0#32 && faultRegs t == (true, 8#4, 0x38#32)) = true := by decide +kernel

/-- R79: `fillpix 62..63` sends two writes, in order. -/
theorem test_fillpix :
    lineEvents (.fillpix 62 63 5#32) = [.write 0x1F8#12 5#32, .write 0x1FC#12 5#32] := by
  decide +kernel

/-! ### Witnesses: for every obligation that has hypotheses, a state and operands that meet them all,
at the boundary values of each clause -/

/-- The state after one cell has been listed; otherwise the reset state. -/
def withCell (a : Nat) (v : Byte) : State := { State.reset with mem := [(a, v)] }

/-- The reset state with a fault entered. -/
def faulted : State := { State.reset with fault := true, cause := 8#4, finfo := 0x38#32 }

/-- The addresses at which the ranges of R58 begin and end. -/
def unmappedEdges : List Addr :=
  [0x024, 0x060, 0x07C, 0x0C0, 0x0FC, 0x200, 0x3FC, 0xC04, 0xFFC]

/-- The locations of R59 and the first and last entry of the table. -/
def readOnlyEdges : List Addr := [0x000, 0x008, 0x00C, 0x010, 0x030, 0x034, 0x038, 0x03C, 0x800, 0xC00]

/-- An outcome of which a check of a next state holds is a next state. -/
theorem exists_next {o : Host.Outcome State Fault Refusal} {p : State → Bool} (h : nextIs o p = true) :
    ∃ t, o = .next t ∧ p t = true := by
  cases o with
  | next t => exact ⟨t, rfl, h⟩
  | fault _ => cases h
  | refused _ => cases h

/-- R75's list of illegal words, as IllegalCommandFaults has it. -/
abbrev illegalWord (w : Word) : Prop :=
  ((w.extractLsb' 0 8).toNat = 0 ∨
      (0x06 ≤ (w.extractLsb' 0 8).toNat ∧ (w.extractLsb' 0 8).toNat ≤ 0xFF)) ∨
    w.extractLsb' 9 7 ≠ 0#7 ∨ w.extractLsb' 25 7 ≠ 0#7 ∨
    (w.extractLsb' 16 9 ≠ 0#9 ∧ ((w.extractLsb' 0 8).toNat = 1 ∨ (w.extractLsb' 0 8).toNat = 2 ∨
      (w.extractLsb' 0 8).toNat = 3 ∨ (w.extractLsb' 0 8).toNat = 5)) ∨
    (w.getLsbD 8 = true ∧ ((w.extractLsb' 0 8).toNat = 2 ∨ (w.extractLsb' 0 8).toNat = 5))

theorem witness_DecodeOfEncode :
    [Instr.score .mask, .score .bitmap, .synth, .extract .mask, .extract .bitmap, .divide .acc0 0,
      .divide .acc1 511, .matchPalette].all Instr.wf = true := by decide

theorem witness_EncodeOfDecode :
    decode 0x01FF0104#32 = .ok (.divide .acc1 511) ∧ decode 0x00000004#32 = .ok (.divide .acc0 0) := by
  decide

/-- Each clause of the list at its first and last opcode, bit or field value. -/
theorem witness_IllegalCommandFaults_illegal : State.reset.fault = false ∧
    [0x00000000#32, 0x00000006#32, 0x000000FF#32, 0x00000201#32, 0x00008004#32, 0x02000004#32,
      0x80000004#32, 0x00010001#32, 0x01000002#32, 0x01FF0003#32, 0x00010005#32, 0x00000102#32,
      0x00000105#32, 0xFFFFFFFF#32].all (fun w => illegalWord w) = true := by decide +kernel

theorem witness_IllegalCommandFaults_legal : State.reset.fault = false ∧
    [0x00000001#32, 0x00000101#32, 0x00000002#32, 0x00000103#32, 0x00000004#32, 0x01FF0104#32,
      0x00000005#32].all (fun w => ¬ illegalWord w) = true := by decide +kernel

theorem witness_StepRunsDecodedCommand :
    State.reset.fault = false ∧
    (State.reset.withFetchWord 32 0x00180004).host.script = .write 0x004#12 0x00180004#32 :: [] ∧
    decode 0x00180004#32 = .ok (.divide .acc0 24) := by decide

theorem witness_StepPerformsFirstEvent :
    State.reset.host.script = [] ∧
    (State.reset.setScript [.reset]).host.script = .reset :: [] ∧
    (State.reset.setScript [.read 0xFFF#12]).host.script = .read 0xFFF#12 :: [] ∧
    (State.reset.setScript [.write 0#12 0#32]).host.script = .write 0#12 0#32 :: [] := by decide

theorem witness_MisalignedFaults : State.reset.fault = false ∧
    [0x001#12, 0x002#12, 0x003#12, 0x025#12, 0xFFF#12].all (fun a => a.extractLsb' 0 2 ≠ 0#2) = true := by decide

/-- `PAL_DEPTH` = 256 leaves the fifth range of R58 without an address. -/
theorem witness_UnmappedFaults : State.reset.fault = false ∧
    unmappedEdges.all (fun a => a.toNat % 4 = 0 ∧
      (a.toNat = 0x024 ∨ (0x060 ≤ a.toNat ∧ a.toNat ≤ 0x07C) ∨ (0x0C0 ≤ a.toNat ∧ a.toNat ≤ 0x0FC) ∨
        (0x200 ≤ a.toNat ∧ a.toNat ≤ 0x3FC) ∨
        (0x400 + 4 * Config.palDepth ≤ a.toNat ∧ a.toNat ≤ 0x7FC) ∨
        (0xC04 ≤ a.toNat ∧ a.toNat ≤ 0xFFC))) = true := by decide +kernel

/-- The addresses beside the ranges are mapped. -/
theorem test_unmapped_neighbours :
    [0x020#12, 0x028#12, 0x05C#12, 0x080#12, 0x0BC#12, 0x100#12, 0x1FC#12, 0x400#12, 0x7FC#12, 0x800#12,
      0xC00#12].all (fun a => (locate a).isSome) = true := by decide +kernel

theorem witness_ReadOnlyWritesFault : State.reset.fault = false ∧
    readOnlyEdges.all (fun a => a.toNat % 4 = 0 ∧
      (a = 0x000#12 ∨ a = 0x008#12 ∨ a = 0x00C#12 ∨ a = 0x010#12 ∨ a = 0x030#12 ∨ a = 0x034#12 ∨
        a = 0x038#12 ∨ a = 0x03C#12 ∨ (0x800 ≤ a.toNat ∧ a.toNat ≤ 0xC00))) = true := by decide +kernel

theorem witness_AddressMapIsExact :
    unmappedEdges.all (fun a => aligned a = true ∧ locate a = none) = true ∧
    aligned 0x7FC#12 = true ∧ locate 0x7FC#12 = some (.pal ⟨255, by decide⟩) ∧
    aligned 0xC00#12 = true ∧ locate 0xC00#12 = some (.recip 256) := by decide +kernel

/-- The last entry of each indexed row of R52, read in a faulted state. -/
theorem witness_LegalReadsReturn :
    (hostRead 0x0BC#12 { faulted with mask := 0x8000000000000000#64 }).2 = 0xFF000000#32 ∧
    (hostRead 0x05C#12 { faulted with acc1 := ⟨1#32, 2#32, 3#32, 4#32⟩ }).2 = 4#32 ∧
    (hostRead 0xC00#12 faulted).2 = 128#32 ∧ (hostRead 0x008#12 faulted).2 = 1#32 ∧
    (hostRead 0x00C#12 faulted).2 = 8#32 ∧ (hostRead 0x010#12 faulted).2 = 0x38#32 := by decide +kernel

theorem witness_LegalWritesStore : State.reset.fault = false ∧
    nextIs (hostWrite 0x7FC#12 0x01020304#32 State.reset) (fun t =>
      t.mem == [(0x7FC, 4#8), (0x7FD, 3#8), (0x7FE, 2#8), (0x7FF, 1#8)]) = true := by decide +kernel

theorem witness_WriteThenRead :
    State.reset.fault = false ∧ locAccess (.maskB 15) = .readWrite ∧
    (∀ k, k < 4 → (0x00FF00FF#32).extractLsb' (8 * k) 8 = 0x00#8 ∨
      (0x00FF00FF#32).extractLsb' (8 * k) 8 = 0xFF#8) ∧
    ∀ w : Fin 16, Loc.pix 63 ≠ .maskB w := by decide

theorem witness_WriteLeavesOtherLocations :
    ∃ t, State.reset.fault = false ∧ locAccess (.maskB 15) = .readWrite ∧
      maskBDataOk 0x00FF00FF#32 = true ∧ Loc.bitmapLo ≠ .maskB 15 ∧
      ¬ ((Loc.bitmapLo = .maskLo ∨ Loc.bitmapLo = .maskHi ∨ ∃ w, Loc.bitmapLo = .maskB w)) ∧
      hostWrite (locAddr (.maskB 15)) 0x00FF00FF#32 State.reset = .next t := by
  obtain ⟨t, ht, -⟩ := exists_next (o := hostWrite (locAddr (.maskB 15)) 0x00FF00FF#32 State.reset)
    (p := fun t => t.mask == 0x5000000000000000#64) (by decide +kernel)
  exact ⟨t, by decide, by decide, by decide, by decide, by simp, ht⟩

theorem witness_MaskByteWindow :
    State.reset.fault = false ∧ 0 < 16 ∧ 15 < 16 ∧
    (∀ k, k < 4 → (0xFF0000FF#32).extractLsb' (8 * k) 8 = 0x00#8 ∨
      (0xFF0000FF#32).extractLsb' (8 * k) 8 = 0xFF#8) ∧
    (∃ k, k < 4 ∧ (0xFE000000#32).extractLsb' (8 * k) 8 ≠ 0x00#8 ∧
      (0xFE000000#32).extractLsb' (8 * k) 8 ≠ 0xFF#8) :=
  ⟨by decide, by decide, by decide, by decide, 3, by decide⟩

theorem witness_MaskFormsConvert : 0 < 64 ∧ 63 < 64 ∧ ∀ i, i < 64 →
    unpackLane 0x8000000000000001#64 i = 0x00#8 ∨ unpackLane 0x8000000000000001#64 i = 0xFF#8 := by
  decide +kernel

theorem witness_PixelBitInEveryView : 0 < 64 ∧ 31 < 64 ∧ 32 < 64 ∧ 63 < 64 := by decide

theorem witness_FaultEntryIsExact :
    State.reset.fault = false ∧ (hostRead 0xFFC#12 State.reset).1.fault = true := by decide +kernel

theorem witness_FaultedStateHolds :
    faulted.fault = true ∧ (0x001#12).toNat % 4 ≠ 0 ∧ ∀ l, locAddr l ≠ 0x024#12 := by
  refine ⟨rfl, by decide, fun l h => ?_⟩
  have h' := congrArg BitVec.toNat h
  rcases l with _ | _ | _ | _ | _ | _ | _ | _ | _ | _ | _ | _ | _ | _ | _ | ⟨g, k⟩ | w | i | ⟨j, hj⟩ | d
  all_goals try (revert h; decide)
  · cases g <;> (simp [locAddr, locAddrNat] at h'; omega)
  · simp [locAddr, locAddrNat] at h'; omega
  · simp [locAddr, locAddrNat, pixAddr] at h'; omega
  · have := Config.palDepth_eq ▸ hj
    simp [locAddr, locAddrNat, palAddr] at h'; omega
  · simp [locAddr, locAddrNat] at h'; omega

theorem witness_OnlyResetLeavesFault : ∃ t,
    (faulted.setScript [.write 0x014#12 1#32]).fault = true ∧
    step (faulted.setScript [.write 0x014#12 1#32]) = .next t ∧
    ∀ rest, (faulted.setScript [.write 0x014#12 1#32]).host.script ≠ .reset :: rest := by
  obtain ⟨t, ht, -⟩ := exists_next (o := step (faulted.setScript [.write 0x014#12 1#32]))
    (p := fun t => t == faulted) (by decide +kernel)
  exact ⟨t, by decide, ht, fun _ => by simp [State.setScript]⟩

theorem witness_FaultingTransactionIsPrecise : ∃ t, State.reset.fault = false ∧
    step (State.reset.setScript [.write 0x038#12 1#32]) = .next t ∧ t.fault = true := by
  obtain ⟨t, ht, h⟩ := exists_next (o := step (State.reset.setScript [.write 0x038#12 1#32]))
    (p := fun t => t.fault) (by decide +kernel)
  exact ⟨t, by decide, ht, h⟩

theorem witness_ResetEventRegisters :
    (faulted.setScript [.reset, .read 0x000#12]).host.script = .reset :: [.read 0x000#12] := rfl

theorem witness_ConstantsNeverChange : ∃ t, step (faulted.setScript [.reset]) = .next t := by
  obtain ⟨t, ht, -⟩ := exists_next (o := step (faulted.setScript [.reset]))
    (p := fun t => t.epoch == 1) (by decide +kernel)
  exact ⟨t, ht⟩

theorem witness_StepKeepsInvariant : ∃ t, Inv ((withCell 0x1FF 7#8).setScript [.write 0x7FC#12 0#32]) ∧
    step ((withCell 0x1FF 7#8).setScript [.write 0x7FC#12 0#32]) = .next t := by
  obtain ⟨t, ht, -⟩ := exists_next (o := step ((withCell 0x1FF 7#8).setScript [.write 0x7FC#12 0#32]))
    (p := fun t => t.mem == [(0x1FF, 7#8), (0x7FC, 0#8), (0x7FD, 0#8), (0x7FE, 0#8), (0x7FF, 0#8)])
    (by decide +kernel)
  exact ⟨t, ⟨by decide, by simp [withCell, State.setScript, inArrays], by decide, by decide, by decide,
    by decide, by decide⟩, ht⟩

/-- The bytes just below and just above the word written. -/
theorem witness_ArraysChangeOnlyByTheirWrites : ∃ t,
    step (State.reset.setScript [.write 0x104#12 0#32]) = .next t ∧
    (∀ rest, (State.reset.setScript [.write 0x104#12 0#32]).host.script ≠ .reset :: rest) ∧
    ∀ b ∈ [0x103, 0x108], ∀ a d rest,
      (State.reset.setScript [.write 0x104#12 0#32]).host.script = .write a d :: rest →
      b < a.toNat ∨ a.toNat + 4 ≤ b := by
  obtain ⟨t, ht, -⟩ := exists_next (o := step (State.reset.setScript [.write 0x104#12 0#32]))
    (p := fun t => t.mem.length == 4) (by decide +kernel)
  refine ⟨t, ht, fun _ => by simp [State.setScript], fun b hb a d rest h => ?_⟩
  simp only [State.setScript, List.cons.injEq, HostEvent.write.injEq] at h
  obtain ⟨⟨rfl, -⟩, -⟩ := h
  clear ht
  revert b
  decide

/-- Writes just below and just above the accumulators' words. -/
theorem witness_ResultsChangeOnlyByCommands : ∀ b ∈ [0x03C#12, 0x060#12], ∃ t,
    step (State.reset.setScript [.write b 0#32]) = .next t ∧
    (∀ rest, (State.reset.setScript [.write b 0#32]).host.script ≠ .reset :: rest) ∧
    (∀ w rest, (State.reset.setScript [.write b 0#32]).host.script ≠ .write 0x004#12 w :: rest) ∧
    ∀ a d rest, (State.reset.setScript [.write b 0#32]).host.script = .write a d :: rest →
      a.toNat < 0x040 ∨ 0x060 ≤ a.toNat := by
  intro b hb
  have hs : nextIs (step (State.reset.setScript [.write b 0#32])) (fun t => t.fault) = true := by
    simp only [List.mem_cons, List.not_mem_nil, or_false] at hb
    obtain rfl | rfl := hb <;> decide +kernel
  obtain ⟨t, ht, -⟩ := exists_next hs
  clear hs
  refine ⟨t, ht, fun _ => by simp [State.setScript], fun _ _ h => ?_, fun a d rest h => ?_⟩ <;>
    simp only [State.setScript, List.cons.injEq, HostEvent.write.injEq] at h <;>
    obtain ⟨⟨rfl, -⟩, -⟩ := h <;> clear ht
  · simp at hb
  · simp only [List.mem_cons, List.not_mem_nil, or_false] at hb
    obtain rfl | rfl := hb <;> decide

theorem witness_CommandsKeepOperands :
    (∃ t, exec (.score .mask) State.reset = .next t) ∧ (∃ t, exec .synth State.reset = .next t) ∧
    (∃ t, exec (.extract .bitmap) State.reset = .next t) ∧
    (∃ t, exec (.divide .acc1 256) State.reset = .next t) ∧
    ∃ t, exec .matchPalette State.reset = .next t := by
  have h : ∀ i, ∃ t, exec i State.reset = .next t := fun i =>
    (exec_effect i State.reset).imp fun _ ht => ht.1
  exact ⟨h _, h _, h _, h _, h _⟩

/-- DIVIDE and MATCH on both of their paths; the other three have one. -/
theorem witness_OperationFrames :
    (∀ i ∈ [Instr.divide .acc0 256, .divide .acc1 0],
      nextIs (exec i State.reset) (fun t => !t.fault) = true) ∧
    (∀ i ∈ [Instr.divide .acc0 257, .divide .acc1 511, .matchPalette],
      nextIs (exec i State.reset) (fun t => t.fault) = true) ∧
    nextIs (exec .matchPalette { withPalette [0#32] 0#32 with fg := 1#32 })
      (fun t => !t.fault) = true := by decide +kernel

theorem witness_RepeatedCommandsAreIdempotent :
    ∀ i ∈ [Instr.score .mask, .synth, .extract .bitmap, .matchPalette], ∀ g d, i ≠ .divide g d := by
  simp

theorem witness_CoreIgnoresHostSide : coreOf (State.reset.setScript [.reset]) =
      coreOf ((State.reset.setScript []).answer 5#32) ∧
    (State.reset.setScript [.reset]).host ≠ ((State.reset.setScript []).answer 5#32).host := by decide

theorem witness_EqualEndpointsIgnoreMask :
    sameRgb (withBlock rampBlock (color 5 6 7 0) (color 5 6 7 255)).fg
      (withBlock rampBlock (color 5 6 7 0) (color 5 6 7 255)).bg := by
  unfold sameRgb; decide +kernel

/-- Two states that differ in the alpha byte of `PIX[0]` and in that of every endpoint. -/
theorem witness_AlphaNeverEnters : ∀ n ∈ [1#32, 256#32],
    let s : State := { withCell 0x103 1#8 with palLen := n }
    let s' : State := { withCell 0x103 2#8 with
      palLen := n, fg := 0xFF000000#32, bg := 0x01000000#32, target := 0x80000000#32 }
    s ≠ s' ∧ sameRgb s.fg s'.fg ∧ sameRgb s.bg s'.bg ∧ sameRgb s.target s'.target ∧
      (∀ i, i < 64 → sameRgb (pix s i) (pix s' i)) ∧ (∀ j, j < 256 → sameRgb (pal s j) (pal s' j)) ∧
      s.mask = s'.mask ∧ s.bitmap = s'.bitmap ∧ s.palLen = s'.palLen ∧
      1 ≤ s.palLen.toNat ∧ s.palLen.toNat ≤ 256 := by
  intro n hn s s'
  have hb : ∀ a, a ≠ 0x103 → byteAt s a = byteAt s' a := fun a ha => by
    simp [s, s', byteAt, withCell, Memory.read?, ha.symm]
  have hch : ∀ a k, k < 3 → a + k ≠ 0x103 → ch (wordAt s a) k = ch (wordAt s' a) k := by
    intro a k hk ha
    have h1 : ∀ t : State, ch (wordAt t a) k = (byteAt t (a + k)).toNat := fun t => by
      have := wordByte_append (byteAt t (a + 3)) (byteAt t (a + 2)) (byteAt t (a + 1)) (byteAt t a)
        (k := k) (by omega)
      unfold ch wordAt
      unfold wordByte at this
      rw [this]
      interval_cases k <;> rfl
    rw [h1, h1, hb _ ha]
  have hfg : sameRgb 0#32 0xFF000000#32 := by unfold sameRgb; decide +kernel
  have hbg : sameRgb 0#32 0x01000000#32 := by unfold sameRgb; decide +kernel
  have htg : sameRgb 0#32 0x80000000#32 := by unfold sameRgb; decide +kernel
  refine ⟨?_, hfg, hbg, htg, ?_, ?_, rfl, rfl, rfl, ?_⟩
  · intro h
    have := congrArg State.fg h
    revert this
    show (0#32 : Word) ≠ 0xFF000000#32
    decide
  · exact fun i _ => ⟨hch _ 0 (by omega) (by unfold pixAddr; omega),
      hch _ 1 (by omega) (by unfold pixAddr; omega), hch _ 2 (by omega) (by unfold pixAddr; omega)⟩
  · exact fun j _ => ⟨hch _ 0 (by omega) (by unfold palAddr; omega),
      hch _ 1 (by omega) (by unfold palAddr; omega), hch _ 2 (by omega) (by unfold palAddr; omega)⟩
  · show 1 ≤ n.toNat ∧ n.toNat ≤ 256
    simp only [List.mem_cons, List.not_mem_nil, or_false] at hn
    obtain rfl | rfl := hn <;> decide

/-- A tied pixel, one nearer to `FG`, and endpoints that agree in R, G and B. -/
theorem witness_SynthSwapAndTies :
    dist3 (color 15 0 0 9) (color 10 0 0 0) = dist3 (color 15 0 0 9) (color 20 0 0 0) ∧
    dist3 (color 16 0 0 9) (color 10 0 0 0) ≠ dist3 (color 16 0 0 9) (color 20 0 0 0) ∧
    sameRgb (color 10 0 0 1) (color 10 0 0 2) := by
  unfold sameRgb; decide +kernel

/-- The bounds of the divisor ranges and exponents: for DivideWritesQuotients, DivideRangeFaults,
DividePowersOfTwoExact and ReciprocalTableEntries. -/
theorem witness_divisors : 0 ≤ 256 ∧ 256 ≤ 256 ∧ (256 < 257 ∧ 257 < 512) ∧ (256 < 511 ∧ 511 < 512) ∧
    (1 ≤ 1 ∧ 8 ≤ 8) ∧ (1 ≤ 1 ∧ 1 ≤ 256) ∧ State.reset.fault = false := by decide

theorem witness_FaultPriorityExamples : State.reset.fault = false := rfl

/-- A sum of 0 and the largest sum of EXTRACT, for DivideNeverOverflows. -/
theorem witness_DivideNeverOverflows :
    256 ≤ 256 ∧ 0 ≤ (accChan (accOf .acc0 State.reset) 0).toInt ∧
    0 ≤ (accChan (accOf .acc1 { State.reset with acc1 := ⟨0#32, 0#32, 0#32, 16320#32⟩ }) 3).toInt ∧
    (accChan (accOf .acc1 { State.reset with acc1 := ⟨0#32, 0#32, 0#32, 16320#32⟩ }) 3).toInt ≤ 16320 := by
  decide

/-- The largest valid sum of divisors 1, 74, 75 and 256, each in its channel. -/
theorem witness_DivideAccuracy :
    let s : State := { State.reset with acc0 := ⟨255#32, 18870#32, 19125#32, 65280#32⟩ }
    0 ≤ (accChan (accOf .acc0 s) 0).toInt ∧ (accChan (accOf .acc0 s) 0).toInt ≤ 255 * 1 ∧
    0 ≤ (accChan (accOf .acc0 s) 1).toInt ∧ (accChan (accOf .acc0 s) 1).toInt ≤ 255 * 74 ∧
    0 ≤ (accChan (accOf .acc0 s) 2).toInt ∧ (accChan (accOf .acc0 s) 2).toInt ≤ 255 * 75 ∧
    0 ≤ (accChan (accOf .acc0 s) 3).toInt ∧ (accChan (accOf .acc0 s) 3).toInt ≤ 255 * 256 := by decide

/-- The lengths at which MATCH completes and at which it faults: for MatchFindsLowestNearest,
MatchIndexRange and MatchLengthFaults. -/
theorem witness_match_lengths :
    [1#32, 256#32].all (fun n => 1 ≤ n.toNat ∧ n.toNat ≤ 256) = true ∧
    ({ State.reset with palLen := 0#32 }).fault = false ∧
    [257#32, 0xFFFFFFFF#32].all (fun n =>
      256 < n.toNat ∧ ({ State.reset with palLen := n }).fault = false) = true := by
  decide +kernel

/-- Two states with one palette entry each, the same, and different contents at index 1. -/
theorem witness_MatchReadsOnlyThePalette :
    let s : State := { withCell 0x404 1#8 with palLen := 1#32 }
    let s' : State := { withCell 0x404 2#8 with palLen := 1#32 }
    s.palLen = s'.palLen ∧ s.target = s'.target ∧ 1 ≤ s.palLen.toNat ∧ s.palLen.toNat ≤ 256 ∧
      s ≠ s' ∧ ∀ j, j < s.palLen.toNat → pal s j = pal s' j := by
  refine ⟨rfl, rfl, by decide, by decide, by decide, fun j hj => ?_⟩
  have h : j = 0 := by
    have : j < 1 := hj
    omega
  subst h
  rfl

/-- The bounds of the divisor, and of the index into a one-pixel and into a whole-block `fillpix`. -/
theorem witness_NotationSendsSpecWords : 0 < 512 ∧ 511 < 512 ∧
    ((63 : Fin 64) ≤ 63 ∧ 0 ≤ (63 : Fin 64).val - (63 : Fin 64).val) ∧
    ((0 : Fin 64) ≤ 63 ∧ 63 ≤ (63 : Fin 64).val - (0 : Fin 64).val) ∧
    lineEvents (.div .acc1 511) = [.write 0x004#12 0x01FF0104#32] := by decide +kernel

end Sys2Proof.Tests
end

section
/-!
SUPPORT. The host's side is never read (R19, R22): replacing it by any other commutes with every
operation and every transaction.
-/

namespace Sys2Proof.Machine

/-- The same CORE beside another host's side. -/
def State.withHost (s : State) (h : HostSide) : State := { s with host := h }

section WithHost

variable (s : State) (h : HostSide)

@[simp] theorem withHost_fault : (s.withHost h).fault = s.fault := rfl
@[simp] theorem withHost_palLen : (s.withHost h).palLen = s.palLen := rfl
@[simp] theorem withHost_host : (s.withHost h).host = h := rfl

@[simp] theorem coreOf_withHost : coreOf (s.withHost h) = coreOf s := rfl

/-- The arrays read alike whatever the host's side is. -/
@[simp] theorem pix_withHost (i : Nat) : pix (s.withHost h) i = pix s i := pix_congr rfl rfl i
@[simp] theorem pal_withHost (j : Nat) : pal (s.withHost h) j = pal s j := pal_congr rfl rfl j

@[simp] theorem maskOf_withHost (m : MaskSel) : maskOf m (s.withHost h) = maskOf m s := by
  cases m <;> rfl

@[simp] theorem accOf_withHost (g : AccSel) : accOf g (s.withHost h) = accOf g s := by
  cases g <;> rfl

@[simp] theorem setAccOf_withHost (g : AccSel) (v : Acc) :
    setAccOf g v (s.withHost h) = (setAccOf g v s).withHost h := by
  cases g <;> rfl

@[simp] theorem raiseFault_withHost (c : Cause) (info : Word) :
    raiseFault c info (s.withHost h) = (raiseFault c info s).withHost h := by
  unfold raiseFault
  split <;> rename_i hf
  · rw [if_pos (by simpa using hf)]
  · rw [if_neg (by simpa using hf)]; rfl

end WithHost

/-- Two states with the same CORE differ in the host's side alone. -/
theorem eq_withHost_of_coreOf_eq {s s' : State} (h : coreOf s = coreOf s') :
    s' = s.withHost s'.host :=
  calc s' = (coreOf s').withHost s'.host := rfl
    _ = (coreOf s).withHost s'.host := by rw [h]
    _ = s.withHost s'.host := rfl

/-! ### Operations and writes -/

/-- An operation that completes and does the same to the CORE whatever the host's side is, leaving
that side as it is. -/
def HostBlind (f : State → Host.Outcome State Fault Refusal) : Prop :=
  ∀ s h, ∃ t, f s = .next t ∧ f (s.withHost h) = .next (t.withHost h)

theorem hostBlind_next {f : State → State} (hf : ∀ s h, f (s.withHost h) = (f s).withHost h) :
    HostBlind fun s => .next (f s) :=
  fun s h => ⟨f s, rfl, congrArg _ (hf s h)⟩

/-- It keeps the host's side: it must agree with itself on `s.withHost s.host`, which is `s`. -/
theorem HostBlind.host_eq {f : State → Host.Outcome State Fault Refusal} (hf : HostBlind f)
    {s t : State} (ht : f s = .next t) : t.host = s.host := by
  obtain ⟨u, hu, hu'⟩ := hf s s.host
  have : t = u.withHost s.host := Host.Outcome.next.inj (ht.symm.trans hu')
  rw [this, withHost_host]

theorem hostBlind_execScore (m : MaskSel) : HostBlind (execScore m) :=
  hostBlind_next fun s h => by
    have : scoreTotal (maskOf m s) (s.withHost h) = scoreTotal (maskOf m s) s :=
      pixelSum_congr fun i _ => by rw [pix_withHost]; rfl
    rw [maskOf_withHost, this]; rfl

theorem hostBlind_execSynth : HostBlind execSynth :=
  hostBlind_next fun s h => by
    have : packBits 64 (synthBit (s.withHost h)) = packBits 64 (synthBit s) :=
      packBits_congr fun i _ => by unfold synthBit; rw [pix_withHost]; rfl
    rw [this]; rfl

theorem groupAcc_withHost (m : Mask64) (b : Bool) (s : State) (h : HostSide) :
    groupAcc m b (s.withHost h) = groupAcc m b s := by
  simp only [groupAcc, groupSum, pix_withHost]

theorem hostBlind_execExtract (m : MaskSel) : HostBlind (execExtract m) :=
  hostBlind_next fun s h => by
    rw [maskOf_withHost, groupAcc_withHost, groupAcc_withHost]; rfl

theorem hostBlind_execDivide (g : AccSel) (d : Nat) : HostBlind (execDivide g d) := by
  intro s h
  by_cases hd : 256 < d
  · refine ⟨_, execDivide_range g s hd, ?_⟩
    rw [execDivide_range g _ hd, raiseFault_withHost]
  · have hd := Nat.le_of_not_lt hd
    refine ⟨_, execDivide_legal g s hd, ?_⟩
    rw [execDivide_legal g _ hd, accOf_withHost, setAccOf_withHost]

theorem hostBlind_execMatch : HostBlind execMatch := by
  intro s h
  by_cases h0 : s.palLen.toNat = 0
  · refine ⟨_, execMatch_empty h0, ?_⟩
    rw [execMatch_empty (by simpa using h0), raiseFault_withHost]
  by_cases h1 : s.palLen.toNat > Config.palDepth
  · refine ⟨_, execMatch_long h1, ?_⟩
    rw [execMatch_long (by simpa using h1), raiseFault_withHost]
  · have h1 := Nat.le_of_not_lt h1
    have hdist : targetDist (s.withHost h) = targetDist s :=
      funext fun j => by unfold targetDist; rw [pal_withHost]; rfl
    refine ⟨_, execMatch_legal h0 h1, ?_⟩
    rw [execMatch_legal (by simpa using h0) (by simpa using h1), hdist]; rfl

theorem hostBlind_exec (i : Instr) : HostBlind (exec i) := by
  cases i with
  | score m => exact hostBlind_execScore m
  | synth => exact hostBlind_execSynth
  | extract m => exact hostBlind_execExtract m
  | divide g d => exact hostBlind_execDivide g d
  | matchPalette => exact hostBlind_execMatch

theorem hostBlind_raiseFault (c : Cause) (info : Word) :
    HostBlind fun s => .next (raiseFault c info s) :=
  hostBlind_next fun s h => raiseFault_withHost s h c info

theorem hostBlind_execute (w : Word) : HostBlind (execute w) := by
  unfold execute
  cases decode w with
  | ok i => exact hostBlind_exec i
  | error _ => exact hostBlind_raiseFault _ _

theorem writeLoc_withHost (l : Loc) (data : Word) (s : State) (h : HostSide) :
    writeLoc l data (s.withHost h) = (writeLoc l data s).withHost h := by
  cases l with
  | acc g k => simp only [writeLoc, accOf_withHost, setAccOf_withHost]
  | maskB w =>
    simp only [writeLoc, writeMaskB]
    split
    · rfl
    · exact raiseFault_withHost s h _ _
  | _ => rfl

theorem hostBlind_writeMapped (l : Loc) (a : Addr) (data : Word) :
    HostBlind (writeMapped l a data) := by
  unfold writeMapped
  cases locAccess l with
  | readOnly => exact hostBlind_raiseFault _ _
  | writeOnly => exact hostBlind_execute data
  | readWrite => exact hostBlind_next (writeLoc_withHost l data)

theorem hostBlind_hostWrite (a : Addr) (data : Word) : HostBlind (hostWrite a data) := by
  intro s h
  unfold hostWrite
  rw [withHost_fault]
  split
  · exact ⟨s, rfl, rfl⟩
  split
  · cases locate a with
    | some l => exact hostBlind_writeMapped l a data s h
    | none => exact hostBlind_raiseFault _ _ s h
  · exact hostBlind_raiseFault _ _ s h

/-! ### Reads -/

theorem readLoc_withHost (l : Loc) (s : State) (h : HostSide) :
    readLoc l (s.withHost h) = readLoc l s := by
  cases l with
  | acc g k => simp only [readLoc, accOf_withHost]
  | pix i => exact pix_withHost s h i
  | pal j => exact pal_withHost s h j
  | _ => rfl

theorem hostRead_withHost (a : Addr) (s : State) (h : HostSide) :
    hostRead a (s.withHost h) = ((hostRead a s).1.withHost h, (hostRead a s).2) := by
  unfold hostRead
  split
  · cases locate a with
    | some l => simp only [readLoc_withHost]
    | none => simp only [raiseFault_withHost]
  · simp only [raiseFault_withHost]

theorem hostRead_host (a : Addr) (s : State) : (hostRead a s).1.host = s.host := by
  rcases hostRead_effect a s with h | ⟨c, info, h⟩
  · rw [h]
  · rw [h, raiseFault_host]

end Sys2Proof.Machine

namespace Sys2Proof.Proofs

open Sys2Proof Sys2Proof.Machine

/-- Settles O37: the second state is the first beside another host's side, and each event
commutes with replacing that side; only a read adds an answer. -/
theorem coreIgnoresHostSide : Obligations.CoreIgnoresHostSide := by
  intro s s' e hcore
  obtain ⟨h, rfl⟩ : ∃ h, s' = s.withHost h := ⟨_, eq_withHost_of_coreOf_eq hcore⟩
  cases e with
  | reset => exact ⟨_, _, rfl, rfl, rfl, [], rfl, rfl⟩
  | read a =>
    refine ⟨_, _, rfl, rfl, ?_, [(hostRead a s).2], ?_, ?_⟩
    · rw [hostRead_withHost]; rfl
    · rw [answer_host, hostRead_host]; rfl
    · rw [hostRead_withHost]; rfl
  | write a d =>
    obtain ⟨t, ht, ht'⟩ := hostBlind_hostWrite a d s h
    exact ⟨t, t.withHost h, ht, ht', (coreOf_withHost t h).symm, [],
      (hostBlind_hostWrite a d).host_eq ht, rfl⟩

end Sys2Proof.Proofs
end

section
/-!
SUPPORT. Alpha never enters a distance (R13), so no operation built on distances sees it.
-/

namespace Sys2Proof.Machine

theorem dist3_congr {x x' y y' : Word} (hx : sameRgb x x') (hy : sameRgb y y') :
    dist3 x y = dist3 x' y' := by
  obtain ⟨hx0, hx1, hx2⟩ := hx
  obtain ⟨hy0, hy1, hy2⟩ := hy
  rw [dist3, dist3, hx0, hx1, hx2, hy0, hy1, hy2]

theorem selColor_sameRgb {s s' : State} (hfg : sameRgb s.fg s'.fg) (hbg : sameRgb s.bg s'.bg)
    (m : Mask64) (i : Nat) : sameRgb (selColor m s i) (selColor m s' i) := by
  unfold selColor
  split
  · exact hfg
  · exact hbg

theorem scoreTotal_congr {s s' : State} (hfg : sameRgb s.fg s'.fg) (hbg : sameRgb s.bg s'.bg)
    (hpix : ∀ i, i < 64 → sameRgb (pix s i) (pix s' i)) (m : Mask64) :
    scoreTotal m s = scoreTotal m s' :=
  pixelSum_congr fun i hi => dist3_congr (selColor_sameRgb hfg hbg m i) (hpix i hi)

theorem synthBit_congr {s s' : State} (hfg : sameRgb s.fg s'.fg) (hbg : sameRgb s.bg s'.bg)
    {i : Nat} (hpix : sameRgb (pix s i) (pix s' i)) : synthBit s i = synthBit s' i := by
  rw [synthBit, synthBit, dist3_congr hpix hbg, dist3_congr hpix hfg]

theorem maskOf_congr {s s' : State} (hmask : s.mask = s'.mask) (hbitmap : s.bitmap = s'.bitmap)
    (sel : MaskSel) : maskOf sel s = maskOf sel s' := by
  cases sel with
  | mask => exact hmask
  | bitmap => exact hbitmap

/-- The scan looks at the first `n` distances only: both answers are the lowest nearest index. -/
theorem nearest_congr {dist dist' : Nat → Nat} {n : Nat} (hn : 0 < n)
    (h : ∀ j, j < n → dist j = dist' j) : nearest dist n = nearest dist' n := by
  obtain ⟨hlt, hmin, hlow⟩ := nearest_spec dist hn
  obtain ⟨hlt', hmin', hlow'⟩ := nearest_spec dist' hn
  have hd := h _ hlt
  have hd' := h _ hlt'
  rcases lt_trichotomy (nearest dist n) (nearest dist' n) with hc | hc | hc
  · have := hlow' _ hc
    have := hmin _ hlt'
    omega
  · exact hc
  · have := hlow _ hc
    have := hmin' _ hlt
    omega

end Sys2Proof.Machine

namespace Sys2Proof.Proofs

open Sys2Proof Sys2Proof.Machine

/-- Settles O42: every distance the three operations take is the same in both states. -/
theorem alphaNeverEnters : Obligations.AlphaNeverEnters := by
  intro s s' hfg hbg htarget hpix hpal hmask hbitmap hlen
  refine ⟨fun sel => ⟨_, _, rfl, rfl, ?score⟩, ⟨_, _, rfl, rfl, ?synth⟩,
    fun h1 h256 => ?matching⟩
  case score =>
    rw [setScore_score, setScore_score, maskOf_congr hmask hbitmap,
      scoreTotal_congr hfg hbg hpix]
  case synth =>
    exact packBits_congr fun i hi => synthBit_congr hfg hbg (hpix i hi)
  case matching =>
    have hdist : ∀ j, j < s.palLen.toNat → targetDist s j = targetDist s' j := fun j hj =>
      dist3_congr htarget (hpal j (by omega))
    have h0 : s.palLen.toNat ≠ 0 := Nat.ne_of_gt h1
    refine ⟨_, _, execMatch_legal h0 h256, execMatch_legal (hlen ▸ h0) (hlen ▸ h256), ?_⟩
    rw [setIndex_index, setIndex_index, ← hlen, nearest_congr h1 hdist]

end Sys2Proof.Proofs
end

section
/-!
SUPPORT. The address map read from the locations: each has an aligned address of its own (R51), so a
transaction at `locAddr l` is a read or a write of `l` itself.
-/

namespace Sys2Proof.Machine

theorem locAddrNat_mod_four (l : Loc) : locAddrNat l % 4 = 0 := by
  cases l with
  | acc g k => cases g <;> simp only [locAddrNat] <;> omega
  | maskB w => simp only [locAddrNat]; omega
  | pix i => simp only [locAddrNat, pixAddr]; omega
  | pal j => simp only [locAddrNat, palAddr]; omega
  | recip d => simp only [locAddrNat]; omega
  | _ => rfl

theorem locAddrNat_lt (l : Loc) : locAddrNat l < 4096 := by
  cases l with
  | acc g k => cases g <;> simp only [locAddrNat] <;> omega
  | maskB w => simp only [locAddrNat]; omega
  | pix i => simp only [locAddrNat, pixAddr]; omega
  | pal j =>
    have hj : j.val < 256 := j.isLt
    simp only [locAddrNat, palAddr]; omega
  | recip d => simp only [locAddrNat]; omega
  | _ => decide

/-- The map finds every location at its address: the branches of `locateNat` before its own do not
take it. -/
theorem locateNat_locAddrNat (l : Loc) : locateNat (locAddrNat l) = some l := by
  have hdepth := Config.palDepth_eq
  cases l with
  | acc g k =>
    cases g with
    | acc0 =>
      show locateNat (0x040 + 4 * k.val) = _
      rw [locateNat, if_neg (by omega), dif_pos (by omega)]
      simp
    | acc1 =>
      show locateNat (0x050 + 4 * k.val) = _
      rw [locateNat, if_neg (by omega), dif_neg (by omega), dif_pos (by omega)]
      simp
  | maskB w =>
    show locateNat (0x080 + 4 * w.val) = _
    rw [locateNat, if_neg (by omega), dif_neg (by omega), dif_neg (by omega), dif_pos (by omega)]
    simp
  | pix i =>
    show locateNat (0x100 + 4 * i.val) = _
    rw [locateNat, if_neg (by omega), dif_neg (by omega), dif_neg (by omega), dif_neg (by omega),
      dif_pos (by omega)]
    simp
  | pal j =>
    show locateNat (0x400 + 4 * j.val) = _
    rw [locateNat, if_neg (by omega), dif_neg (by omega), dif_neg (by omega), dif_neg (by omega),
      dif_neg (by omega), dif_pos (by omega)]
    simp
  | recip d =>
    show locateNat (0x800 + 4 * d.val) = _
    rw [locateNat, if_neg (by omega), dif_neg (by omega), dif_neg (by omega), dif_neg (by omega),
      dif_neg (by omega), dif_neg (by omega), dif_pos (by omega)]
    simp
  | _ => rfl

/-- The words of two locations do not overlap. -/
theorem locAddrNat_apart {l r : Loc} (h : r ≠ l) :
    locAddrNat r + 4 ≤ locAddrNat l ∨ locAddrNat l + 4 ≤ locAddrNat r := by
  have hne : locAddrNat r ≠ locAddrNat l := fun heq => h <| Option.some.inj <| by
    rw [← locateNat_locAddrNat r, heq, locateNat_locAddrNat]
  have := locAddrNat_mod_four l
  have := locAddrNat_mod_four r
  omega

theorem locAddr_toNat (l : Loc) : (locAddr l).toNat = locAddrNat l := by
  rw [locAddr, BitVec.toNat_ofNat]
  exact Nat.mod_eq_of_lt (locAddrNat_lt l)

@[simp] theorem aligned_locAddr (l : Loc) : aligned (locAddr l) = true := by
  rw [aligned, locAddr_toNat, locAddrNat_mod_four]; rfl

@[simp] theorem locate_locAddr (l : Loc) : locate (locAddr l) = some l := by
  rw [locate, locAddr_toNat, locateNat_locAddrNat]

@[simp] theorem hostRead_locAddr (l : Loc) (s : State) :
    hostRead (locAddr l) s = (s, readLoc l s) := by
  rw [hostRead, if_pos (aligned_locAddr l), locate_locAddr]

theorem hostWrite_locAddr (l : Loc) (data : Word) {s : State} (hf : s.fault = false) :
    hostWrite (locAddr l) data s = writeMapped l (locAddr l) data s := by
  rw [hostWrite, if_neg (by simp [hf]), if_pos (aligned_locAddr l), locate_locAddr]

theorem hostWrite_readWrite {l : Loc} (data : Word) {s : State} (hf : s.fault = false)
    (hl : locAccess l = .readWrite) :
    hostWrite (locAddr l) data s = .next (writeLoc l data s) := by
  rw [hostWrite_locAddr l data hf, writeMapped, hl]

theorem hostWrite_cmd (w : Word) {s : State} (hf : s.fault = false) :
    hostWrite (locAddr .cmd) w s = execute w s :=
  hostWrite_locAddr .cmd w hf

end Sys2Proof.Machine
end

section
/-!
SUPPORT. The byte lanes of the mask (R32, R43): when data is well formed, and what a write of
`MASKB` and the two conversions do bit by bit.
-/

namespace Sys2Proof.Machine

theorem laneOk_iff (b : Byte) : laneOk b = true ↔ b = 0x00#8 ∨ b = 0xFF#8 := by
  simp [laneOk]

/-- A well-formed lane is the lane of the bit it packs to. -/
theorem laneByte_of_lane {b : Byte} (h : b = 0x00#8 ∨ b = 0xFF#8) : laneByte (b == 0xFF#8) = b := by
  rcases h with rfl | rfl <;> rfl

/-- The bit of a lane is the bit it was made of. -/
@[simp] theorem laneByte_beq (b : Bool) : (laneByte b == 0xFF#8) = b := by
  cases b <;> rfl

theorem maskBDataOk_iff (v : Word) :
    maskBDataOk v = true ↔ ∀ k, k < 4 → wordByte v k = 0x00#8 ∨ wordByte v k = 0xFF#8 := by
  simp only [maskBDataOk, Bool.and_eq_true, laneOk_iff]
  constructor
  · rintro ⟨⟨⟨h0, h1⟩, h2⟩, h3⟩ k hk
    obtain rfl | rfl | rfl | rfl : k = 0 ∨ k = 1 ∨ k = 2 ∨ k = 3 := by omega
    exacts [h0, h1, h2, h3]
  · intro h
    exact ⟨⟨⟨h 0 (by decide), h 1 (by decide)⟩, h 2 (by decide)⟩, h 3 (by decide)⟩

theorem getLsbD_maskBWrite_same (m : Mask64) {w k : Nat} (v : Word) (hw : w < 16) (hk : k < 4) :
    (maskBWrite m w v).getLsbD (4 * w + k) = (wordByte v k == 0xFF#8) := by
  rw [maskBWrite, getLsbD_packBits, if_pos (by omega), decide_eq_true (by omega), Bool.true_and,
    show (4 * w + k) % 4 = k by omega]

theorem getLsbD_maskBWrite_other (m : Mask64) {w p : Nat} (v : Word) (hp : p < 64)
    (hw : p / 4 ≠ w) : (maskBWrite m w v).getLsbD p = m.getLsbD p := by
  rw [maskBWrite, getLsbD_packBits, if_neg hw, decide_eq_true hp, Bool.true_and]

/-- A word is determined by its four bytes. -/
theorem word_ext_bytes {v w : Word} (h : ∀ k, k < 4 → wordByte v k = wordByte w k) : v = w := by
  rw [← word_of_bytes v, ← word_of_bytes w, h 0 (by decide), h 1 (by decide), h 2 (by decide),
    h 3 (by decide)]

/-- Well-formed data reads back from `MASKB[w]` lane by lane. -/
theorem maskBWord_maskBWrite (m : Mask64) {w : Nat} {v : Word} (hw : w < 16)
    (hv : maskBDataOk v = true) : maskBWord (maskBWrite m w v) w = v :=
  word_ext_bytes fun k hk => by
    rw [wordByte_maskBWord _ _ hk, getLsbD_maskBWrite_same m v hw hk]
    exact laneByte_of_lane ((maskBDataOk_iff v).1 hv k hk)

theorem writeMaskB_ok {v : Word} (w : Nat) (s : State) (hv : maskBDataOk v = true) :
    writeMaskB w v s = s.setMask (maskBWrite s.mask w v) :=
  if_pos hv

theorem writeMaskB_malformed {v : Word} (w : Nat) (s : State) (hv : maskBDataOk v ≠ true) :
    writeMaskB w v s = raiseFault .maskForm v s :=
  if_neg hv

theorem getLsbD_packLanes (lanes : Nat → Byte) {i : Nat} (hi : i < 64) :
    (packLanes lanes).getLsbD i = (lanes i == 0xFF#8) := by
  rw [packLanes, getLsbD_packBits, decide_eq_true hi, Bool.true_and]

end Sys2Proof.Machine
end

section
/-!
SUPPORT. What a read returns after a write (R52, R53): the value just written at the same location,
the old value at every other.
-/

namespace Sys2Proof.Machine

/-- The locations that show bits of `MASK` (R55). -/
def viewsMask (l : Loc) : Prop := l = .maskLo ∨ l = .maskHi ∨ ∃ w, l = .maskB w

section Reads

variable (s : State) {r : Loc}

theorem readLoc_setFg (v : Word) (h : r ≠ .fg) : readLoc r (s.setFg v) = readLoc r s := by
  cases r with
  | fg => exact absurd rfl h
  | _ => rfl

theorem readLoc_setBg (v : Word) (h : r ≠ .bg) : readLoc r (s.setBg v) = readLoc r s := by
  cases r with
  | bg => exact absurd rfl h
  | _ => rfl

theorem readLoc_setTarget (v : Word) (h : r ≠ .target) :
    readLoc r (s.setTarget v) = readLoc r s := by
  cases r with
  | target => exact absurd rfl h
  | _ => rfl

theorem readLoc_setPalLen (v : Word) (h : r ≠ .palLen) :
    readLoc r (s.setPalLen v) = readLoc r s := by
  cases r with
  | palLen => exact absurd rfl h
  | _ => rfl

theorem readLoc_setMask (v : Mask64) (h : ¬ viewsMask r) :
    readLoc r (s.setMask v) = readLoc r s := by
  cases r with
  | maskLo => exact absurd (.inl rfl) h
  | maskHi => exact absurd (.inr (.inl rfl)) h
  | maskB w => exact absurd (.inr (.inr ⟨w, rfl⟩)) h
  | _ => rfl

theorem readLoc_setAccOf_accSetChan {g : AccSel} {k : Fin 4} (v : Word) (h : r ≠ .acc g k) :
    readLoc r (setAccOf g (accSetChan (accOf g s) k v) s) = readLoc r s := by
  cases r with
  | acc j i =>
    simp only [readLoc, accOf_setAccOf]
    by_cases hj : j = g
    · subst hj
      have hi : i ≠ k := fun hik => h (by rw [hik])
      rw [if_pos rfl, accChan_accSetChan, if_neg hi]
    · rw [if_neg hj]
  | _ => cases g <;> rfl

theorem readLoc_storeWord {l : Loc} (v : Word) (h : r ≠ l) :
    readLoc r (s.storeWord (locAddrNat l) v) = readLoc r s := by
  cases r with
  | pix i => exact wordAt_storeWord_other v (locAddrNat_apart h)
  | pal j => exact wordAt_storeWord_other v (locAddrNat_apart h)
  | _ => rfl

/-- Reading back the location just written (R60). -/
theorem readLoc_writeLoc_same {l : Loc} {v : Word} (hl : locAccess l = .readWrite)
    (hv : ∀ w, l = .maskB w → maskBDataOk v = true) : readLoc l (writeLoc l v s) = v := by
  cases l with
  | fg | bg | target | palLen => rfl
  | maskLo => exact loWord_joinWords _ _
  | maskHi => exact hiWord_joinWords _ _
  | acc g k => simp only [readLoc, writeLoc, accOf_setAccOf, accChan_accSetChan, if_true]
  | maskB w =>
    simp only [writeLoc, readLoc, writeMaskB_ok _ s (hv w rfl), setMask_mask]
    exact maskBWord_maskBWrite _ w.isLt (hv w rfl)
  | pix i => exact wordAt_storeWord_same _ _
  | pal j => exact wordAt_storeWord_same _ _
  | _ => cases hl

/-- Reading a location other than the one written; the views of `MASK` count as one. -/
theorem readLoc_writeLoc_other {l : Loc} {v : Word} (hv : ∀ w, l = .maskB w → maskBDataOk v = true)
    (hr : r ≠ l) (hviews : ¬ (viewsMask l ∧ viewsMask r)) :
    readLoc r (writeLoc l v s) = readLoc r s := by
  cases l with
  | fg => exact readLoc_setFg s v hr
  | bg => exact readLoc_setBg s v hr
  | target => exact readLoc_setTarget s v hr
  | palLen => exact readLoc_setPalLen s v hr
  | maskLo => exact readLoc_setMask s _ fun h => hviews ⟨.inl rfl, h⟩
  | maskHi => exact readLoc_setMask s _ fun h => hviews ⟨.inr (.inl rfl), h⟩
  | maskB w =>
    simp only [writeLoc, writeMaskB_ok _ s (hv w rfl)]
    exact readLoc_setMask s _ fun h => hviews ⟨.inr (.inr ⟨w, rfl⟩), h⟩
  | acc g k => exact readLoc_setAccOf_accSetChan s v hr
  | pix i => exact readLoc_storeWord s (l := .pix i) v hr
  | pal j => exact readLoc_storeWord s (l := .pal j) v hr
  | _ => rfl

end Reads

end Sys2Proof.Machine
end

section
/-!
SUPPORT. Everything a step can do, said once: idle, the reset event, a read, which may raise a fault,
or a write; and which writes reach the store of a location.
-/

namespace Sys2Proof.Machine

/-- Everything a step can do, with the event of the host's list it does it for. -/
inductive StepEffect (s : State) : State → Prop where
  | idle (h : s.host.script = []) : StepEffect s s
  | reset (rest : List HostEvent) (h : s.host.script = .reset :: rest) :
      StepEffect s (resetEvent (s.setScript rest))
  | readKeeps (a : Addr) (rest : List HostEvent) (h : s.host.script = .read a :: rest) (w : Word) :
      StepEffect s ((s.setScript rest).answer w)
  | readFaults (a : Addr) (rest : List HostEvent) (h : s.host.script = .read a :: rest) (w : Word)
      (c : Cause) (info : Word) : StepEffect s ((raiseFault c info (s.setScript rest)).answer w)
  | write (a : Addr) (data : Word) (rest : List HostEvent)
      (h : s.host.script = .write a data :: rest) (t : State)
      (ht : hostWrite a data (s.setScript rest) = .next t) : StepEffect s t

theorem step_effect {s t : State} (h : step s = .next t) : StepEffect s t := by
  cases hs : s.host.script with
  | nil =>
    rw [step_of_nil hs] at h
    cases h
    exact .idle hs
  | cons e rest =>
    rw [step_of_cons hs] at h
    cases e with
    | reset =>
      cases h
      exact .reset rest hs
    | read a =>
      cases h
      rcases hostRead_effect a (s.setScript rest) with hr | ⟨c, info, hr⟩ <;> rw [hr]
      · exact .readKeeps a rest hs _
      · exact .readFaults a rest hs _ c info
    | write a d => exact .write a d rest hs t h

theorem writeEffect_of_hostWrite {a : Addr} {data : Word} {s t : State}
    (h : hostWrite a data s = .next t) : WriteEffect a data s t := by
  obtain ⟨u, hu, he⟩ := hostWrite_effect a data s
  cases hu.symm.trans h
  exact he

theorem eq_cmd_of_writeOnly {l : Loc} (h : locAccess l = .writeOnly) : l = .cmd := by
  cases l with
  | cmd => rfl
  | _ => cases h

/-- A write is ignored, raises a fault, is a command, or is the store of the read-write location at
its address. -/
theorem hostWrite_cases {a : Addr} {data : Word} {s t : State} (h : hostWrite a data s = .next t) :
    (s.fault = true ∧ t = s) ∨ (∃ c info, t = raiseFault c info s) ∨
      (a = 0x004#12 ∧ execute data s = .next t) ∨
      ∃ l, locAddrNat l = a.toNat ∧ locAccess l = .readWrite ∧ t = writeLoc l data s := by
  unfold hostWrite at h
  split at h
  · rename_i hf
    cases h; exact .inl ⟨hf, rfl⟩
  split at h
  · rename_i hal
    have hn : a.toNat % 4 = 0 := by simpa [aligned] using hal
    split at h
    · rename_i l hl
      have hloc : locAddrNat l = a.toNat := locAddrNat_of_locateNat hn hl
      cases hacc : locAccess l with
      | readOnly =>
        rw [writeMapped, hacc] at h
        cases h; exact .inr (.inl ⟨_, _, rfl⟩)
      | writeOnly =>
        rw [writeMapped, hacc] at h
        refine .inr (.inr (.inl ⟨BitVec.eq_of_toNat_eq ?_, h⟩))
        rw [← hloc, eq_cmd_of_writeOnly hacc]; rfl
      | readWrite =>
        rw [writeMapped, hacc] at h
        cases h; exact .inr (.inr (.inr ⟨l, hloc, hacc, rfl⟩))
    · cases h; exact .inr (.inl ⟨_, _, rfl⟩)
  · cases h; exact .inr (.inl ⟨_, _, rfl⟩)

end Sys2Proof.Machine
end

section
/-!
SUPPORT. The reset value of an accumulator, and the invariant: it speaks of the arrays, the fault
registers, `SCORE` and `INDEX` only, and every shared operation keeps it.
-/

namespace Sys2Proof.Machine

@[simp] theorem accChan_zero (k : Fin 4) : accChan Acc.zero k = 0#32 := by
  fin_cases k <;> rfl

section Invariant

variable {s t : State}

/-- A state with the same arrays, fault registers, `SCORE` and `INDEX` meets the invariant too. -/
theorem Inv.congr (h : Inv s) (hmem : t.mem = s.mem) (hcause : t.cause = s.cause)
    (hfault : t.fault = s.fault) (hfinfo : t.finfo = s.finfo) (hscore : t.score = s.score)
    (hindex : t.index = s.index) : Inv t where
  memWf := hmem ▸ h.memWf
  memArrays := hmem ▸ h.memArrays
  causeFault := by rw [hcause, hfault]; exact h.causeFault
  causeCode := hcause ▸ h.causeCode
  finfoClear := by rw [hfault, hfinfo]; exact h.finfoClear
  scoreRange := hscore ▸ h.scoreRange
  indexRange := hindex ▸ h.indexRange

theorem inv_reset : Inv State.reset where
  memWf := List.Pairwise.nil
  memArrays _ hc := absurd hc List.not_mem_nil
  causeFault := by simp
  causeCode := Nat.zero_le _
  finfoClear _ := rfl
  scoreRange := Nat.zero_le _
  indexRange := by decide

theorem inv_resetEvent (s : State) : Inv (resetEvent s) :=
  inv_reset.congr rfl rfl rfl rfl rfl rfl

theorem Inv.setScript (h : Inv s) (es : List HostEvent) : Inv (s.setScript es) :=
  h.congr rfl rfl rfl rfl rfl rfl

theorem Inv.answer (h : Inv s) (w : Word) : Inv (s.answer w) :=
  h.congr rfl rfl rfl rfl rfl rfl

theorem Inv.setAccOf (h : Inv s) (g : AccSel) (v : Acc) : Inv (setAccOf g v s) := by
  cases g <;> exact h.congr rfl rfl rfl rfl rfl rfl

theorem Inv.enterFault (h : Inv s) (c : Cause) (info : Word) : Inv (enterFault c info s) where
  memWf := h.memWf
  memArrays := h.memArrays
  causeFault := iff_of_true (causeCode_ne_zero c) rfl
  causeCode := causeCode_le c
  finfoClear hf := Bool.noConfusion hf
  scoreRange := h.scoreRange
  indexRange := h.indexRange

theorem Inv.raiseFault (h : Inv s) (c : Cause) (info : Word) : Inv (raiseFault c info s) := by
  cases hf : s.fault with
  | false => rw [raiseFault_clear c info hf]; exact h.enterFault c info
  | true => rw [raiseFault_faulted c info hf]; exact h

theorem Inv.setScore (h : Inv s) {v : Word} (hv : v.toNat ≤ 12484800) : Inv (s.setScore v) :=
  ⟨h.memWf, h.memArrays, h.causeFault, h.causeCode, h.finfoClear, hv, h.indexRange⟩

theorem Inv.setIndex (h : Inv s) {v : Word} (hv : v.toNat < Config.palDepth) :
    Inv (s.setIndex v) :=
  ⟨h.memWf, h.memArrays, h.causeFault, h.causeCode, h.finfoClear, h.scoreRange, hv⟩

/-- The two ends of a word decide for the bytes between: neither array ends inside it. -/
theorem inArrays_between {a b : Nat} (hlo : inArrays a) (hhi : inArrays (a + 3)) (hab : a ≤ b)
    (hba : b < a + 4) : inArrays b := by
  simp only [inArrays, Config.palDepth_eq] at *
  omega

theorem Inv.storeWord (h : Inv s) {a : Nat} (w : Word) (hlo : inArrays a)
    (hhi : inArrays (a + 3)) : Inv (s.storeWord a w) where
  memWf := Memory.wf_writeWord a w h.memWf
  memArrays c hc := by
    rcases Memory.mem_writeWord hc with ⟨hac, hca⟩ | hc
    · exact inArrays_between hlo hhi hac hca
    · exact h.memArrays c hc
  causeFault := h.causeFault
  causeCode := h.causeCode
  finfoClear := h.finfoClear
  scoreRange := h.scoreRange
  indexRange := h.indexRange

theorem CommandEffect.inv (ht : CommandEffect s t) (h : Inv s) : Inv t := by
  cases ht with
  | score v hv => exact h.setScore hv
  | bitmap v => exact h.congr rfl rfl rfl rfl rfl rfl
  | accs u v => exact h.congr rfl rfl rfl rfl rfl rfl
  | acc g v => exact h.setAccOf g v
  | index v hv => exact h.setIndex hv
  | fault c info => exact h.raiseFault c info

theorem StoreEffect.inv {l : Loc} {data : Word} (ht : StoreEffect l data s t) (h : Inv s) :
    Inv t := by
  cases ht with
  | fg | bg | target | palLen | mask v => exact h.congr rfl rfl rfl rfl rfl rfl
  | acc g v => exact h.setAccOf g v
  | array hlo hhi => exact h.storeWord data hlo hhi
  | fault c info => exact h.raiseFault c info

theorem WriteEffect.inv {a : Addr} {data : Word} (ht : WriteEffect a data s t) (h : Inv s) :
    Inv t := by
  cases ht with
  | ignored _ => exact h
  | fault _ c info => exact h.enterFault c info
  | store _ _ _ _ hstore => exact hstore.inv h
  | command _ _ _ hcommand => exact hcommand.inv h

theorem StepEffect.inv (ht : StepEffect s t) (h : Inv s) : Inv t := by
  cases ht with
  | idle _ => exact h
  | reset rest _ => exact inv_resetEvent _
  | readKeeps a rest _ w => exact (h.setScript rest).answer w
  | readFaults a rest _ w c info => exact ((h.setScript rest).raiseFault c info).answer w
  | write a data rest _ _ hwrite => exact (writeEffect_of_hostWrite hwrite).inv (h.setScript rest)

end Invariant

end Sys2Proof.Machine
end

section
/-!
SUPPORT. What a write leaves unchanged: the bytes outside its own word, and the registers that only
commands write.
-/

namespace Sys2Proof.Machine

theorem CommandEffect.byteAt_eq {s t : State} (h : CommandEffect s t) (b : Nat) :
    byteAt t b = byteAt s b := by
  obtain ⟨-, -, -, -, -, hmem, hepoch, -⟩ := commandEffect_keeps h
  exact byteAt_congr hmem hepoch b

theorem StoreEffect.byteAt_eq {l : Loc} {data : Word} {s t : State} (h : StoreEffect l data s t)
    {b : Nat} (hb : b < locAddrNat l ∨ locAddrNat l + 4 ≤ b) : byteAt t b = byteAt s b := by
  cases h with
  | fg | bg | target | palLen | mask v => rfl
  | acc g v => cases g <;> rfl
  | array _ _ => exact byteAt_storeWord_other data hb
  | fault c info => exact byteAt_congr (raiseFault_mem c info s) (raiseFault_epoch c info s) b

/-- A write changes no byte outside the word at its address. -/
theorem WriteEffect.byteAt_eq {a : Addr} {data : Word} {s t : State} (h : WriteEffect a data s t)
    {b : Nat} (hb : b < a.toNat ∨ a.toNat + 4 ≤ b) : byteAt t b = byteAt s b := by
  cases h with
  | ignored _ => rfl
  | fault _ c info => rfl
  | store _ l ha _ hstore => exact hstore.byteAt_eq (ha.symm ▸ hb)
  | command _ _ _ hcommand => exact hcommand.byteAt_eq b

/-- The same `SCORE`, `BITMAP` and `INDEX`. -/
def sameResults (s t : State) : Prop :=
  t.score = s.score ∧ t.bitmap = s.bitmap ∧ t.index = s.index

/-- The same accumulators. -/
def sameAccs (s t : State) : Prop := t.acc0 = s.acc0 ∧ t.acc1 = s.acc1

theorem sameResults_raiseFault (c : Cause) (info : Word) (s : State) :
    sameResults s (raiseFault c info s) :=
  ⟨raiseFault_score c info s, raiseFault_bitmap c info s, raiseFault_index c info s⟩

theorem sameAccs_raiseFault (c : Cause) (info : Word) (s : State) :
    sameAccs s (raiseFault c info s) :=
  ⟨raiseFault_acc0 c info s, raiseFault_acc1 c info s⟩

/-- No data location is a result register (R59). -/
theorem sameResults_writeLoc (l : Loc) (data : Word) (s : State) :
    sameResults s (writeLoc l data s) := by
  cases l with
  | acc g k => cases g <;> exact ⟨rfl, rfl, rfl⟩
  | maskB w =>
    simp only [writeLoc, writeMaskB]
    split
    · exact ⟨rfl, rfl, rfl⟩
    · exact sameResults_raiseFault _ _ s
  | _ => exact ⟨rfl, rfl, rfl⟩

/-- The accumulators are stored at their own addresses only (R51). -/
theorem sameAccs_writeLoc {l : Loc} (data : Word) (s : State)
    (h : locAddrNat l < 0x040 ∨ 0x060 ≤ locAddrNat l) : sameAccs s (writeLoc l data s) := by
  cases l with
  | acc g k => cases g <;> simp only [locAddrNat] at h <;> omega
  | maskB w =>
    simp only [writeLoc, writeMaskB]
    split
    · exact ⟨rfl, rfl⟩
    · exact sameAccs_raiseFault _ _ s
  | _ => exact ⟨rfl, rfl⟩

section HostWrite

variable {a : Addr} {data : Word} {s t : State} (h : hostWrite a data s = .next t)
  (hcmd : a ≠ 0x004#12)

include h hcmd

theorem sameResults_hostWrite : sameResults s t := by
  rcases hostWrite_cases h with ⟨-, rfl⟩ | ⟨c, info, rfl⟩ | ⟨ha, -⟩ | ⟨l, -, -, rfl⟩
  · exact ⟨rfl, rfl, rfl⟩
  · exact sameResults_raiseFault c info s
  · exact absurd ha hcmd
  · exact sameResults_writeLoc l data s

theorem sameAccs_hostWrite (haddr : a.toNat < 0x040 ∨ 0x060 ≤ a.toNat) : sameAccs s t := by
  rcases hostWrite_cases h with ⟨-, rfl⟩ | ⟨c, info, rfl⟩ | ⟨ha, -⟩ | ⟨l, hl, -, rfl⟩
  · exact ⟨rfl, rfl⟩
  · exact sameAccs_raiseFault c info s
  · exact absurd ha hcmd
  · exact sameAccs_writeLoc data s (hl.symm ▸ haddr)

end HostWrite

end Sys2Proof.Machine
end

section
/-!
The statements of the state, its invariant and its frames (spec 10_state.md).
-/

namespace Sys2Proof.Proofs

open Sys2Proof Sys2Proof.Machine

/-- Settles O31, by the cases of what a step can do. -/
theorem stepKeepsInvariant : Obligations.StepKeepsInvariant :=
  fun _ _ hinv hstep => (step_effect hstep).inv hinv

/-- Settles O30: nothing is listed in the arrays and every register is 0. -/
theorem resetMeetsInvariant : Obligations.ResetMeetsInvariant := inv_reset

/-- Settles O17: at a location's own address a write is `writeLoc` and a read is `readLoc`. -/
theorem writeThenRead : Obligations.WriteThenRead := by
  intro s l d hf hl hlanes
  refine ⟨_, hostWrite_readWrite d hf hl, ?_⟩
  rw [hostRead_locAddr,
    readLoc_writeLoc_same s hl fun w hw => (maskBDataOk_iff d).2 (hlanes w hw)]

/-- Settles O18: each store changes what the locations of one register read. -/
theorem writeLeavesOtherLocations : Obligations.WriteLeavesOtherLocations := by
  intro s t l r d hf hl hlanes hr hviews ht
  cases (hostWrite_readWrite d hf hl).symm.trans ht
  rw [hostRead_locAddr, hostRead_locAddr, readLoc_writeLoc_other s hlanes hr hviews]

/-- Settles O19: the address is that of the location `MASKB[w]`, whose write stores or faults by
`maskBDataOk`. -/
theorem maskByteWindow : Obligations.MaskByteWindow := by
  intro s w v hw
  let l : Loc := .maskB ⟨w, hw⟩
  have hwrite (hf : s.fault = false) : hostWrite (locAddr l) v s = .next (writeMaskB w v s) :=
    hostWrite_readWrite v hf rfl
  refine ⟨⟨_, hostRead_locAddr l s, fun k hk => wordByte_maskBWord s.mask w hk⟩,
    fun hf hlanes => ?wellFormed, fun hf ⟨k, hk, h0, h1⟩ => ?malformed⟩
  case wellFormed =>
    refine ⟨maskBWrite s.mask w v, ?_, fun k hk => getLsbD_maskBWrite_same s.mask v hw hk,
      fun p hp hpw => getLsbD_maskBWrite_other s.mask v hp hpw⟩
    exact (hwrite hf).trans (congrArg _ (writeMaskB_ok w s ((maskBDataOk_iff v).2 hlanes)))
  case malformed =>
    have hbad : maskBDataOk v ≠ true := fun hok => ((maskBDataOk_iff v).1 hok k hk).elim h0 h1
    refine (hwrite hf).trans (congrArg _ ?_)
    rw [writeMaskB_malformed w s hbad, raiseFault_clear _ _ hf]
    rfl

/-- Settles O20: a packed bit is 1 exactly for the lane 0xFF, which is the lane of the bit 1. -/
theorem maskFormsConvert : Obligations.MaskFormsConvert := by
  refine ⟨fun m i _ => rfl, fun lanes i hi => getLsbD_packLanes lanes hi, fun m => ?packUnpack,
    fun lanes hlanes i hi => ?unpackPack⟩
  case packUnpack =>
    exact mask_ext fun i hi => by rw [getLsbD_packLanes _ hi, unpackLane, laneByte_beq]
  case unpackPack =>
    rw [unpackLane, getLsbD_packLanes lanes hi, laneByte_of_lane (hlanes i hi)]

/-- Settles O32: without a reset only a write can store a byte, and only in the word it addresses. -/
theorem arraysChangeOnlyByTheirWrites : Obligations.ArraysChangeOnlyByTheirWrites := by
  intro s t b hstep hreset hwrite
  cases step_effect hstep with
  | idle _ => rfl
  | reset rest h => exact absurd h (hreset rest)
  | readKeeps a rest _ w => rfl
  | readFaults a rest _ w c info =>
    exact byteAt_congr (raiseFault_mem c info _) (raiseFault_epoch c info _) b
  | write a data rest h _ ht =>
    exact (writeEffect_of_hostWrite ht).byteAt_eq (hwrite a data rest h)

/-- Settles O33: only the write case of a step does more than raise a fault, and a write elsewhere
than `CMD` is at most the store of its own location. -/
theorem resultsChangeOnlyByCommands : Obligations.ResultsChangeOnlyByCommands := by
  intro s t hstep hreset hcmd
  suffices h : sameResults s t ∧ ((∀ a d rest, s.host.script = .write a d :: rest →
      a.toNat < 0x040 ∨ 0x060 ≤ a.toNat) → sameAccs s t) by
    obtain ⟨⟨hscore, hbitmap, hindex⟩, haccs⟩ := h
    exact ⟨hscore, hbitmap, hindex, haccs⟩
  cases step_effect hstep with
  | idle _ => exact ⟨⟨rfl, rfl, rfl⟩, fun _ => ⟨rfl, rfl⟩⟩
  | reset rest h => exact absurd h (hreset rest)
  | readKeeps a rest _ w => exact ⟨⟨rfl, rfl, rfl⟩, fun _ => ⟨rfl, rfl⟩⟩
  | readFaults a rest _ w c info =>
    exact ⟨sameResults_raiseFault c info (s.setScript rest),
      fun _ => sameAccs_raiseFault c info (s.setScript rest)⟩
  | write a data rest h _ ht =>
    have ha : a ≠ 0x004#12 := fun ha => hcmd data rest (ha ▸ h)
    exact ⟨sameResults_hostWrite (s := s.setScript rest) ht ha,
      fun haddr => sameAccs_hostWrite (s := s.setScript rest) ht ha (haddr a data rest h)⟩

/-- Settles O34: every command has one of the effects of `CommandEffect`, and none touches these. -/
theorem commandsKeepOperands : Obligations.CommandsKeepOperands := by
  intro i s t hexec
  obtain ⟨u, hu, heffect⟩ := exec_effect i s
  cases hu.symm.trans hexec
  obtain ⟨hfg, hbg, htarget, hlen, hmask, hmem, hepoch, hhost⟩ := commandEffect_keeps heffect
  exact ⟨hfg, hbg, htarget, hlen, hmask, hhost, pix_congr hmem hepoch, pal_congr hmem hepoch,
    byteAt_congr hmem hepoch⟩

/-- Settles O7: `0x004` is the address of `CMD`, whose write executes its data. -/
theorem stepRunsDecodedCommand : Obligations.StepRunsDecodedCommand := by
  intro s w i rest hf hscript hdecode
  calc step s = hostWrite (locAddr .cmd) w (s.setScript rest) := step_of_cons hscript
    _ = execute w (s.setScript rest) := hostWrite_cmd w hf
    _ = exec i (s.setScript rest) := by rw [execute, hdecode]

/-- Settles O27: the values of `State.reset` field by field, and the two constant reads. -/
theorem resetStateRegisters : Obligations.ResetStateRegisters :=
  ⟨rfl, rfl, rfl, rfl, rfl, rfl, rfl, rfl, rfl, rfl, rfl, accChan_zero, accChan_zero, rfl, rfl, rfl⟩

/-- Settles O28: the step is `resetEvent`, which keeps nothing of the CORE but the count of resets. -/
theorem resetEventRegisters : Obligations.ResetEventRegisters :=
  fun _ _ hscript => ⟨_, step_of_cons hscript, rfl, rfl, rfl, rfl, rfl, rfl, rfl, rfl, rfl, rfl, rfl,
    accChan_zero, accChan_zero, rfl⟩

end Sys2Proof.Proofs
end

section
/-!
SUPPORT. The address map read from the addresses (spec 20_memory.md R51, R56, R58): which addresses are
aligned, which are unmapped, and what a transaction that is turned away does.
-/

namespace Sys2Proof.Machine

/-- R58's list: the addresses of the map that hold no location. -/
def unmapped (n : Nat) : Prop :=
  n = 0x024 ∨ (0x060 ≤ n ∧ n ≤ 0x07C) ∨ (0x0C0 ≤ n ∧ n ≤ 0x0FC) ∨ (0x200 ≤ n ∧ n ≤ 0x3FC) ∨
    (0x400 + 4 * Config.palDepth ≤ n ∧ n ≤ 0x7FC) ∨ (0xC04 ≤ n ∧ n ≤ 0xFFC)

theorem aligned_iff (a : Addr) : aligned a = true ↔ a.toNat % 4 = 0 := by
  simp [aligned]

/-- The alignment rule in the spec's words: `addr[1:0] = 0` (R56). -/
theorem aligned_iff_low_bits (a : Addr) : aligned a = true ↔ a.extractLsb' 0 2 = 0#2 := by
  rw [aligned_iff, ← BitVec.toNat_inj, BitVec.extractLsb'_toNat]
  rfl

/-- Below 0x040 only 0x024 is unmapped. -/
theorem locateScalar_eq_none_iff {n : Nat} (hn : n % 4 = 0) (hlt : n < 0x040) :
    locateScalar n = none ↔ n = 0x024 := by
  revert hn
  revert n
  decide

/-- The branches of `locateNat` leave out exactly R58's list. -/
theorem locateNat_eq_none_iff {n : Nat} (hn : n % 4 = 0) (hlt : n < 0x1000) :
    locateNat n = none ↔ unmapped n := by
  have hdepth := Config.palDepth_eq
  unfold locateNat unmapped
  by_cases hscalar : n < 0x040
  · rw [if_pos hscalar, locateScalar_eq_none_iff hn hscalar]
    omega
  · rw [if_neg hscalar]
    split_ifs <;> simp only [false_iff, true_iff] <;> omega

theorem locate_eq_none_iff {a : Addr} (ha : aligned a = true) :
    locate a = none ↔ unmapped a.toNat :=
  locateNat_eq_none_iff ((aligned_iff a).1 ha) a.isLt

/-- The location found at an aligned address has that address. -/
theorem locAddr_of_locate {a : Addr} {l : Loc} (ha : aligned a = true) (h : locate a = some l) :
    locAddr l = a :=
  BitVec.eq_of_toNat_eq <|
    (locAddr_toNat l).trans (locAddrNat_of_locateNat ((aligned_iff a).1 ha) h)

section TurnedAway

variable {s : State} (hf : s.fault = false)

include hf

theorem hostRead_misaligned {a : Addr} (ha : aligned a ≠ true) :
    hostRead a s = (enterFault .busMisaligned (a.setWidth 32) s, 0#32) := by
  rw [hostRead, if_neg ha, raiseFault_clear _ _ hf]

theorem hostWrite_misaligned {a : Addr} (data : Word) (ha : aligned a ≠ true) :
    hostWrite a data s = .next (enterFault .busMisaligned (a.setWidth 32) s) := by
  rw [hostWrite, if_neg (by simp [hf]), if_neg ha, raiseFault_clear _ _ hf]

theorem hostRead_unmapped {a : Addr} (ha : aligned a = true) (hu : unmapped a.toNat) :
    hostRead a s = (enterFault .busUnmapped (a.setWidth 32) s, 0#32) := by
  rw [hostRead, if_pos ha, (locate_eq_none_iff ha).2 hu]
  simp only [raiseFault_clear _ _ hf]

theorem hostWrite_unmapped {a : Addr} (data : Word) (ha : aligned a = true)
    (hu : unmapped a.toNat) :
    hostWrite a data s = .next (enterFault .busUnmapped (a.setWidth 32) s) := by
  rw [hostWrite, if_neg (by simp [hf]), if_pos ha, (locate_eq_none_iff ha).2 hu]
  simp only [raiseFault_clear _ _ hf]

theorem hostWrite_readOnly {l : Loc} (data : Word) (hl : locAccess l = .readOnly) :
    hostWrite (locAddr l) data s =
      .next (enterFault .busReadonly ((locAddr l).setWidth 32) s) := by
  rw [hostWrite_locAddr l data hf, writeMapped, hl]
  simp only [raiseFault_clear _ _ hf]

end TurnedAway

/-- The aligned addresses 0x800 to 0xC00 are those of the Reciprocal Table (R51). -/
theorem exists_recip_locAddr {a : Addr} (hn : a.toNat % 4 = 0) (hlo : 0x800 ≤ a.toNat)
    (hhi : a.toNat ≤ 0xC00) : ∃ d, locAddr (.recip d) = a := by
  refine ⟨⟨(a.toNat - 0x800) / 4, by omega⟩, BitVec.eq_of_toNat_eq ?_⟩
  rw [locAddr_toNat, locAddrNat]
  dsimp only
  omega

end Sys2Proof.Machine
end

section
/-!
SUPPORT. The views of a 64-bit register (R55): its two halves and, for `MASK`, the byte window.
-/

namespace Sys2Proof.Machine

/-- `STATUS` reads as its one implemented bit (R25). -/
theorem statusWord_eq (s : State) : statusWord s = if s.fault then 1#32 else 0#32 := by
  unfold statusWord
  cases s.fault <;> rfl

/-- Bit p of a register stands at bit p % 32 of the half that holds it. -/
theorem getLsbD_halves (m : Mask64) {p : Nat} (hp : p < 64) :
    (if p < 32 then loWord m else hiWord m).getLsbD (p % 32) = m.getLsbD p := by
  have hmod : p % 32 < 32 := Nat.mod_lt _ (by decide)
  split
  · rw [loWord, BitVec.getLsbD_extractLsb', decide_eq_true hmod, Bool.true_and,
      show 0 + p % 32 = p by omega]
  · rw [hiWord, BitVec.getLsbD_extractLsb', decide_eq_true hmod, Bool.true_and,
      show 32 + p % 32 = p by omega]

/-- A register with a `_LO` and a `_HI` location, read by the host at bit p. -/
theorem getLsbD_hostRead_halves {lo hi : Loc} {s : State} {m : Mask64}
    (hlo : readLoc lo s = loWord m) (hhi : readLoc hi s = hiWord m) {p : Nat} (hp : p < 64) :
    (hostRead (if p < 32 then locAddr lo else locAddr hi) s).2.getLsbD (p % 32) = m.getLsbD p := by
  rw [← apply_ite locAddr, hostRead_locAddr, apply_ite (readLoc · s), hlo, hhi,
    getLsbD_halves m hp]

end Sys2Proof.Machine
end

section
/-!
SUPPORT. The operations other than DIVIDE read nothing that they write, so doing one again writes the
same value (R57).
-/

namespace Sys2Proof.Machine

/-- Doing an operation again leaves the state it has left. -/
def Idempotent (f : State → Host.Outcome State Fault Refusal) : Prop :=
  ∀ s, ∃ t, f s = .next t ∧ f t = .next t

theorem idempotent_execScore (sel : MaskSel) : Idempotent (execScore sel) := by
  refine fun s => ⟨_, rfl, ?_⟩
  generalize hv : BitVec.ofNat 32 (scoreTotal (maskOf sel s) s) = v
  have hmask : maskOf sel (s.setScore v) = maskOf sel s := maskOf_congr rfl rfl sel
  have htotal : scoreTotal (maskOf sel s) (s.setScore v) = scoreTotal (maskOf sel s) s :=
    scoreTotal_congr ⟨rfl, rfl, rfl⟩ ⟨rfl, rfl, rfl⟩ (fun _ _ => ⟨rfl, rfl, rfl⟩) _
  rw [execScore, hmask, htotal, hv]
  rfl

theorem idempotent_execSynth : Idempotent execSynth := by
  refine fun s => ⟨_, rfl, ?_⟩
  generalize hv : packBits 64 (synthBit s) = v
  have hbits : packBits 64 (synthBit (s.setBitmap v)) = packBits 64 (synthBit s) :=
    packBits_congr fun i _ => synthBit_congr ⟨rfl, rfl, rfl⟩ ⟨rfl, rfl, rfl⟩ ⟨rfl, rfl, rfl⟩
  rw [execSynth, hbits, hv]
  rfl

theorem groupAcc_congr {s t : State} (hmem : t.mem = s.mem) (hepoch : t.epoch = s.epoch)
    (m : Mask64) (b : Bool) : groupAcc m b t = groupAcc m b s := by
  simp only [groupAcc, groupSum, pix_congr hmem hepoch]

theorem idempotent_execExtract (sel : MaskSel) : Idempotent (execExtract sel) := by
  refine fun s => ⟨_, rfl, ?_⟩
  generalize hu : groupAcc (maskOf sel s) false s = u
  generalize hv : groupAcc (maskOf sel s) true s = v
  have hmask : maskOf sel ((s.setAcc0 u).setAcc1 v) = maskOf sel s := maskOf_congr rfl rfl sel
  have hacc (b : Bool) := groupAcc_congr (s := s) (t := (s.setAcc0 u).setAcc1 v) rfl rfl
    (maskOf sel s) b
  rw [execExtract, hmask, hacc, hacc, hu, hv]
  rfl

theorem idempotent_execMatch : Idempotent execMatch := by
  intro s
  by_cases hempty : s.palLen.toNat = 0
  · refine ⟨_, execMatch_empty hempty, ?_⟩
    rw [execMatch_empty (by rwa [raiseFault_palLen]), raiseFault_twice]
  by_cases hlong : s.palLen.toNat > Config.palDepth
  · refine ⟨_, execMatch_long hlong, ?_⟩
    rw [execMatch_long (by rwa [raiseFault_palLen]), raiseFault_twice]
  · have hlegal := Nat.le_of_not_lt hlong
    refine ⟨_, execMatch_legal hempty hlegal, ?_⟩
    generalize hv : BitVec.ofNat 32 (nearest (targetDist s) s.palLen.toNat) = v
    have hdist : targetDist (s.setIndex v) = targetDist s := funext fun j => by
      rw [targetDist, targetDist, setIndex_target, pal_congr (setIndex_mem s v) (setIndex_epoch s v)]
    rw [execMatch_legal (s := s.setIndex v) hempty hlegal, hdist, setIndex_palLen, hv]
    rfl

end Sys2Proof.Machine
end

section
/-!
SUPPORT. The two lines of a host program whose transactions depend on numbers: `div` and `fillpix`
(spec 30_encoding.md R78, R79).
-/

namespace Sys2Proof.Machine

/-- `div` sends DIVIDE's opcode, its accumulator bit and its divisor (R73, R78). -/
theorem lineEvents_div (g : AccSel) {d : Nat} (hd : d < 512) :
    lineEvents (.div g d) =
      [.write 0x004#12 (BitVec.ofNat 32 (4 + 0x100 * accSelBit g + 0x10000 * d))] := by
  rw [lineEvents, encode, formatC, Nat.mod_eq_of_lt hd]
  rfl

theorem length_lineEvents_fillpix (lo hi : Fin 64) (c : Word) :
    (lineEvents (.fillpix lo hi c)).length = hi.val + 1 - lo.val := by
  rw [lineEvents, List.length_map, List.length_range']

/-- The k-th transaction of `fillpix` writes `PIX[lo + k]` (R79). -/
theorem getElem?_lineEvents_fillpix {lo hi : Fin 64} (c : Word) {k : Nat}
    (hk : k < hi.val + 1 - lo.val) :
    (lineEvents (.fillpix lo hi c))[k]? =
      some (.write (BitVec.ofNat 12 (pixAddr (lo.val + k))) c) := by
  rw [lineEvents, List.getElem?_map, List.getElem?_range' hk, Nat.one_mul]
  rfl

end Sys2Proof.Machine
end

section
/-!
The statements of the register space and of the host's lines (spec 20_memory.md, 30_encoding.md).
-/

namespace Sys2Proof.Proofs

open Sys2Proof Sys2Proof.Machine

/-- Settles O11: the alignment check comes before the address is looked up. -/
theorem misalignedFaults : Obligations.MisalignedFaults := by
  intro s a d hf hlow
  have ha : aligned a ≠ true := mt (aligned_iff_low_bits a).1 hlow
  exact ⟨hostWrite_misaligned hf d ha, hostRead_misaligned hf ha⟩

/-- Settles O12: at an address of R58's list the map finds no location. -/
theorem unmappedFaults : Obligations.UnmappedFaults := by
  intro s a d hf hn hu
  have ha : aligned a = true := (aligned_iff a).2 hn
  exact ⟨hostWrite_unmapped hf d ha hu, hostRead_unmapped hf ha hu⟩

/-- Settles O13: each address of R59's list is that of a read-only location. -/
theorem readOnlyWritesFault : Obligations.ReadOnlyWritesFault := by
  refine ⟨fun s a d hf hn haddr => ?_, hostRead_locAddr .cmd⟩
  obtain ⟨l, hl, rfl⟩ : ∃ l, locAccess l = .readOnly ∧ locAddr l = a := by
    rcases haddr with rfl | rfl | rfl | rfl | rfl | rfl | rfl | rfl | ⟨hlo, hhi⟩
    · exact ⟨.id, rfl, rfl⟩
    · exact ⟨.status, rfl, rfl⟩
    · exact ⟨.cause, rfl, rfl⟩
    · exact ⟨.finfo, rfl, rfl⟩
    · exact ⟨.bitmapLo, rfl, rfl⟩
    · exact ⟨.bitmapHi, rfl, rfl⟩
    · exact ⟨.score, rfl, rfl⟩
    · exact ⟨.index, rfl, rfl⟩
    · obtain ⟨e, he⟩ := exists_recip_locAddr hn hlo hhi
      exact ⟨.recip e, rfl, he⟩
  exact hostWrite_readOnly hf d hl

/-- Settles O14: `locate` and `locAddr` are inverse to each other on the mapped addresses. -/
theorem addressMapIsExact : Obligations.AddressMapIsExact :=
  ⟨fun l => ⟨aligned_locAddr l, locate_locAddr l⟩,
    fun _ ha => ⟨locate_eq_none_iff ha, fun _ => locAddr_of_locate ha⟩⟩

/-- Settles O15: every address of the list is a location's own, where a read is `readLoc`. -/
theorem legalReadsReturn : Obligations.LegalReadsReturn := by
  intro s
  have hread (l : Loc) := hostRead_locAddr l s
  have hstatus : hostRead 0x008#12 s = (s, if s.fault then 1#32 else 0#32) :=
    (hread .status).trans (congrArg _ (statusWord_eq s))
  exact ⟨hread .id, hread .cmd, hstatus, hread .cause, hread .finfo, hread .fg, hread .bg,
    hread .target, hread .palLen, hread .maskLo, hread .maskHi, hread .bitmapLo, hread .bitmapHi,
    hread .score, hread .index, fun k => hread (.acc .acc0 k), fun k => hread (.acc .acc1 k),
    fun w hw => ⟨_, hread (.maskB ⟨w, hw⟩), fun _ hk => wordByte_maskBWord s.mask w hk⟩,
    fun i hi => hread (.pix ⟨i, hi⟩), fun j hj => hread (.pal ⟨j, hj⟩),
    fun d hd => hread (.recip ⟨d, hd⟩)⟩

/-- Settles O16: every address of the list is a read-write location's own, where a write is
`writeLoc`. -/
theorem legalWritesStore : Obligations.LegalWritesStore := by
  intro s d hf
  have hwrite (l : Loc) (hl : locAccess l = .readWrite) := hostWrite_readWrite d hf hl
  have hword (a : Nat) : wordAt (s.storeWord a d) a = d ∧
      ∀ b, b < a ∨ a + 4 ≤ b → byteAt (s.storeWord a d) b = byteAt s b :=
    ⟨wordAt_storeWord_same a d, fun _ => byteAt_storeWord_other d⟩
  exact ⟨hwrite .fg rfl, hwrite .bg rfl, hwrite .target rfl, hwrite .palLen rfl,
    ⟨_, hwrite .maskLo rfl, loWord_joinWords _ _, hiWord_joinWords _ _⟩,
    ⟨_, hwrite .maskHi rfl, hiWord_joinWords _ _, loWord_joinWords _ _⟩,
    fun k => ⟨_, hwrite (.acc .acc0 k) rfl, fun j => accChan_accSetChan s.acc0 k j d⟩,
    fun k => ⟨_, hwrite (.acc .acc1 k) rfl, fun j => accChan_accSetChan s.acc1 k j d⟩,
    fun i hi => ⟨_, hwrite (.pix ⟨i, hi⟩) rfl, hword (pixAddr i)⟩,
    fun j hj => ⟨_, hwrite (.pal ⟨j, hj⟩) rfl, hword (palAddr j)⟩⟩

/-- Settles O21: the halves of `MASK` and `BITMAP` and the lanes of `MASKB` at pixel p. -/
theorem pixelBitInEveryView : Obligations.PixelBitInEveryView := by
  intro s p hp
  refine ⟨getLsbD_hostRead_halves (lo := .maskLo) (hi := .maskHi) rfl rfl hp, ?window,
    getLsbD_hostRead_halves (lo := .bitmapLo) (hi := .bitmapHi) rfl rfl hp⟩
  case window =>
    let l : Loc := .maskB ⟨p / 4, by omega⟩
    have hlane := wordByte_maskBWord s.mask (p / 4) (Nat.mod_lt p (by decide : 4 > 0))
    rw [Nat.div_add_mod] at hlane
    exact (congrArg (fun r => wordByte r.2 (p % 4)) (hostRead_locAddr l s)).trans hlane

/-- Settles O36: none of the four operations reads its own result. -/
theorem repeatedCommandsAreIdempotent : Obligations.RepeatedCommandsAreIdempotent := by
  intro i s hdivide
  cases i with
  | score sel => exact idempotent_execScore sel s
  | synth => exact idempotent_execSynth s
  | extract sel => exact idempotent_execExtract sel s
  | divide g d => exact absurd rfl (hdivide g d)
  | matchPalette => exact idempotent_execMatch s

/-- Settles O8, by the laws of a step with an empty and with a non-empty list. -/
theorem stepPerformsFirstEvent : Obligations.StepPerformsFirstEvent :=
  fun _ => ⟨step_of_nil, fun _ => step_of_cons, fun _ _ => step_of_cons, fun _ _ _ => step_of_cons⟩

/-- Settles O60: only `div` and `fillpix` need an argument; every other line is spelled out. -/
theorem notationSendsSpecWords : Obligations.NotationSendsSpecWords := by
  refine ⟨rfl, rfl, rfl, rfl, rfl, rfl, ?div, fun _ _ => rfl, fun _ => rfl, fun _ => rfl,
    fun _ _ => rfl, ?fillpix, fun _ _ => rfl, fun _ => ⟨rfl, rfl, rfl⟩, fun _ => rfl, rfl, rfl, rfl,
    rfl, ⟨rfl, fun _ _ => rfl⟩, fun _ => rfl, rfl, fun _ => ⟨rfl, rfl⟩, fun _ => rfl, fun _ => rfl,
    fun _ => rfl, fun _ => rfl⟩
  case div =>
    exact fun d hd => ⟨lineEvents_div .acc0 hd, lineEvents_div .acc1 hd⟩
  case fillpix =>
    intro lo hi c hle
    have hle : lo.val ≤ hi.val := hle
    refine ⟨?_, fun k hk => getElem?_lineEvents_fillpix c (by omega)⟩
    rw [length_lineEvents_fillpix]
    omega

end Sys2Proof.Proofs
end

section
/-!
SUPPORT. The fields of a command word (spec 30_encoding.md R71 to R75): a word is its fields, and the
decoder answers a command exactly when they are the fields of that command.
-/

namespace Sys2Proof.Machine

/-- The five fields of format C (R71). -/
@[ext] structure Fields where
  op : Nat
  sel : Bool
  rsv0 : Nat
  imm : Nat
  rsv1 : Nat

/-- The fields of a word (R71). -/
def wordFields (w : Word) : Fields where
  op := opField w
  sel := selField w
  rsv0 := rsv0Field w
  imm := immField w
  rsv1 := rsv1Field w

/-- The fields of a command, by the columns of R73. -/
def instrFields : Instr → Fields
  | .score m => ⟨1, decide (m = .bitmap), 0, 0, 0⟩
  | .synth => ⟨2, false, 0, 0, 0⟩
  | .extract m => ⟨3, decide (m = .bitmap), 0, 0, 0⟩
  | .divide g d => ⟨4, decide (g = .acc1), 0, d, 0⟩
  | .matchPalette => ⟨5, false, 0, 0, 0⟩

@[simp] theorem maskSelOf_decide (m : MaskSel) : maskSelOf (decide (m = .bitmap)) = m := by
  cases m <;> rfl

@[simp] theorem decide_maskSelOf (b : Bool) : decide (maskSelOf b = .bitmap) = b := by
  cases b <;> rfl

@[simp] theorem accSelOf_decide (g : AccSel) : accSelOf (decide (g = .acc1)) = g := by
  cases g <;> rfl

@[simp] theorem decide_accSelOf (b : Bool) : decide (accSelOf b = .acc1) = b := by
  cases b <;> rfl

theorem immField_lt (w : Word) : immField w < 512 := (w.extractLsb' 16 9).isLt

/-- R71's layout of a word. -/
theorem toNat_eq_fields (w : Word) :
    w.toNat = opField w + 2 ^ 8 * (selField w).toNat + 2 ^ 9 * rsv0Field w +
      2 ^ 16 * immField w + 2 ^ 25 * rsv1Field w := by
  have hw : w.toNat < 2 ^ 32 := w.isLt
  have hsel : (selField w).toNat = w.toNat / 2 ^ 8 % 2 := Nat.toNat_testBit w.toNat 8
  simp only [hsel, opField, rsv0Field, immField, rsv1Field, BitVec.extractLsb'_toNat,
    Nat.shiftRight_eq_div_pow]
  omega

theorem wordFields_injective : Function.Injective wordFields := by
  intro v w h
  simp only [wordFields, Fields.mk.injEq] at h
  obtain ⟨hop, hsel, hrsv0, himm, hrsv1⟩ := h
  apply BitVec.eq_of_toNat_eq
  rw [toNat_eq_fields v, toNat_eq_fields w, hop, hsel, hrsv0, himm, hrsv1]

/-- The fields of a command's word: only a divisor can be too large for its field. -/
theorem wordFields_encode {i : Instr} (hi : i.wf = true) : wordFields (encode i) = instrFields i := by
  cases i with
  | score m | extract m => cases m <;> rfl
  | synth | matchPalette => rfl
  | divide g d =>
    obtain ⟨h0, h1, hop, himm, hsel⟩ := Laws.Format.divide g d
    have hd : d < 512 := of_decide_eq_true hi
    exact Fields.ext hop hsel h0 (himm.trans (Nat.mod_eq_of_lt hd)) h1

/-- The five branches in which the decoder answers a command. -/
theorem fields_of_decode {w : Word} {i : Instr} (h : decode w = .ok i) :
    wordFields w = instrFields i := by
  by_cases hrsv : rsv0Field w ≠ 0 ∨ rsv1Field w ≠ 0
  · rw [decode, if_pos hrsv] at h
    cases h
  rw [decode, if_neg hrsv] at h
  obtain ⟨hrsv0, hrsv1⟩ : rsv0Field w = 0 ∧ rsv1Field w = 0 := by simpa using hrsv
  split_ifs at h with hop himm hop hsel himm hop himm hop hop hsel himm <;> cases h
  · exact Fields.ext hop (decide_maskSelOf _).symm hrsv0 (not_not.1 himm) hrsv1
  · exact Fields.ext hop (eq_false_of_ne_true hsel) hrsv0 (not_not.1 himm) hrsv1
  · exact Fields.ext hop (decide_maskSelOf _).symm hrsv0 (not_not.1 himm) hrsv1
  · exact Fields.ext hop (decide_accSelOf _).symm hrsv0 rfl hrsv1
  · exact Fields.ext hop (eq_false_of_ne_true hsel) hrsv0 (not_not.1 himm) hrsv1

theorem decode_of_fields {w : Word} {i : Instr} (h : wordFields w = instrFields i) :
    decode w = .ok i := by
  obtain ⟨hop, hsel, hrsv0, himm, hrsv1⟩ := Fields.ext_iff.1 h
  simp only [wordFields] at hop hsel hrsv0 himm hrsv1
  rw [decode, hop, hsel, hrsv0, himm, hrsv1]
  cases i <;> simp [instrFields]

/-- The decoder says no more and no less than the columns of R73. -/
theorem decode_eq_ok_iff (w : Word) (i : Instr) :
    decode w = .ok i ↔ wordFields w = instrFields i :=
  ⟨fields_of_decode, decode_of_fields⟩

/-- No divisor the decoder answers is too large. -/
theorem wf_of_fields {w : Word} {i : Instr} (h : wordFields w = instrFields i) : i.wf = true := by
  cases i with
  | divide g d =>
    have himm : immField w = d := congrArg Fields.imm h
    exact decide_eq_true (himm ▸ immField_lt w)
  | _ => rfl

theorem decode_encode {i : Instr} (hi : i.wf = true) : decode (encode i) = .ok i :=
  decode_of_fields (wordFields_encode hi)

theorem wf_and_encode_of_decode {w : Word} {i : Instr} (h : decode w = .ok i) :
    i.wf = true ∧ encode i = w := by
  have hfields := fields_of_decode h
  have hi := wf_of_fields hfields
  exact ⟨hi, wordFields_injective ((wordFields_encode hi).trans hfields.symm)⟩

end Sys2Proof.Machine
end

section
/-!
SUPPORT. The match and mask values of R73: a mask clears the operand fields of its operation.
-/

namespace Sys2Proof.Machine

/-- A word and a mask, field by field. -/
theorem wordFields_and (w m : Word) : wordFields (w &&& m) =
    ⟨opField w &&& opField m, selField w && selField m, rsv0Field w &&& rsv0Field m,
      immField w &&& immField m, rsv1Field w &&& rsv1Field m⟩ := by
  simp only [wordFields, opField, selField, rsv0Field, immField, rsv1Field,
    BitVec.extractLsb'_and, BitVec.toNat_and, BitVec.getLsbD_and]

theorem opField_and_ones (w : Word) : opField w &&& 0xFF = opField w :=
  Nat.and_two_pow_sub_one_of_lt_two_pow (n := 8) (w.extractLsb' 0 8).isLt

theorem rsv0Field_and_ones (w : Word) : rsv0Field w &&& 0x7F = rsv0Field w :=
  Nat.and_two_pow_sub_one_of_lt_two_pow (n := 7) (w.extractLsb' 9 7).isLt

theorem immField_and_ones (w : Word) : immField w &&& 0x1FF = immField w :=
  Nat.and_two_pow_sub_one_of_lt_two_pow (n := 9) (immField_lt w)

theorem rsv1Field_and_ones (w : Word) : rsv1Field w &&& 0x7F = rsv1Field w :=
  Nat.and_two_pow_sub_one_of_lt_two_pow (n := 7) (w.extractLsb' 25 7).isLt

/-- The mask of SCORE and EXTRACT leaves `sel` free. -/
theorem wordFields_and_selMask (w : Word) :
    wordFields (w &&& 0xFFFFFEFF#32) = { wordFields w with sel := false } :=
  (wordFields_and w _).trans <| Fields.ext (opField_and_ones w) (Bool.and_false _)
    (rsv0Field_and_ones w) (immField_and_ones w) (rsv1Field_and_ones w)

/-- The mask of DIVIDE leaves `sel` and `imm9` free. -/
theorem wordFields_and_selImmMask (w : Word) :
    wordFields (w &&& 0xFE00FEFF#32) = { wordFields w with sel := false, imm := 0 } :=
  (wordFields_and w _).trans <| Fields.ext (opField_and_ones w) (Bool.and_false _)
    (rsv0Field_and_ones w) (Nat.and_zero _) (rsv1Field_and_ones w)

/-- A word is compared with a command's word by its fields. -/
theorem eq_encode_iff {w : Word} {f : Fields} (i : Instr) (hi : i.wf = true)
    (hw : wordFields w = f) : w = encode i ↔ f = instrFields i := by
  rw [← wordFields_injective.eq_iff, wordFields_encode hi, hw]

/-- The fields of a command whose only operand is a mask source, whatever that source is. -/
theorem exists_maskSel_fields_iff (op : Nat) (f : Fields) :
    (∃ m : MaskSel, f = ⟨op, decide (m = .bitmap), 0, 0, 0⟩) ↔
      { f with sel := false } = ⟨op, false, 0, 0, 0⟩ := by
  constructor
  · rintro ⟨m, rfl⟩
    rfl
  · intro h
    obtain ⟨hop, -, hrsv0, himm, hrsv1⟩ := Fields.ext_iff.1 h
    exact ⟨maskSelOf f.sel, Fields.ext hop (decide_maskSelOf f.sel).symm hrsv0 himm hrsv1⟩

/-- The fields of DIVIDE, whatever its accumulator and divisor. -/
theorem exists_divide_fields_iff (f : Fields) :
    (∃ g d, f = instrFields (.divide g d)) ↔
      { f with sel := false, imm := 0 } = ⟨4, false, 0, 0, 0⟩ := by
  constructor
  · rintro ⟨g, d, rfl⟩
    rfl
  · intro h
    obtain ⟨hop, -, hrsv0, -, hrsv1⟩ := Fields.ext_iff.1 h
    exact ⟨accSelOf f.sel, f.imm, Fields.ext hop (decide_accSelOf f.sel).symm hrsv0 rfl hrsv1⟩

section DecodeIff

variable (w : Word)

theorem decode_score_iff :
    (∃ m, decode w = .ok (.score m)) ↔ w &&& 0xFFFFFEFF#32 = encode (.score .mask) := by
  simp only [decode_eq_ok_iff, instrFields, exists_maskSel_fields_iff]
  exact (eq_encode_iff (.score .mask) rfl (wordFields_and_selMask w)).symm

theorem decode_synth_iff : decode w = .ok .synth ↔ w = encode .synth :=
  (decode_eq_ok_iff w .synth).trans (eq_encode_iff .synth rfl rfl).symm

theorem decode_extract_iff :
    (∃ m, decode w = .ok (.extract m)) ↔ w &&& 0xFFFFFEFF#32 = encode (.extract .mask) := by
  simp only [decode_eq_ok_iff, instrFields, exists_maskSel_fields_iff]
  exact (eq_encode_iff (.extract .mask) rfl (wordFields_and_selMask w)).symm

theorem decode_divide_iff :
    (∃ g d, decode w = .ok (.divide g d)) ↔ w &&& 0xFE00FEFF#32 = encode (.divide .acc0 0) := by
  simp only [decode_eq_ok_iff, exists_divide_fields_iff]
  exact (eq_encode_iff (.divide .acc0 0) rfl (wordFields_and_selImmMask w)).symm

theorem decode_matchPalette_iff : decode w = .ok .matchPalette ↔ w = encode .matchPalette :=
  (decode_eq_ok_iff w .matchPalette).trans (eq_encode_iff .matchPalette rfl rfl).symm

end DecodeIff

end Sys2Proof.Machine
end

section
/-!
SUPPORT. The number of command words (R73): as many as there are well-formed commands.
-/

namespace Sys2Proof.Machine

/-- The operands of the five operations, row by row of R73: 2 + 1 + 2 + 1024 + 1 choices. -/
abbrev Operands := Bool ⊕ Unit ⊕ Bool ⊕ (Bool × Fin 512) ⊕ Unit

/-- The command with given operands. -/
def commandOf : Operands → Instr
  | .inl b => .score (maskSelOf b)
  | .inr (.inl ()) => .synth
  | .inr (.inr (.inl b)) => .extract (maskSelOf b)
  | .inr (.inr (.inr (.inl (b, d)))) => .divide (accSelOf b) d.val
  | .inr (.inr (.inr (.inr ()))) => .matchPalette

/-- The operands of a command; a divisor is taken modulo its field. -/
def operandsOf : Instr → Operands
  | .score m => .inl (decide (m = .bitmap))
  | .synth => .inr (.inl ())
  | .extract m => .inr (.inr (.inl (decide (m = .bitmap))))
  | .divide g d => .inr (.inr (.inr (.inl (decide (g = .acc1), Fin.ofNat 512 d))))
  | .matchPalette => .inr (.inr (.inr (.inr ())))

theorem operandsOf_commandOf : Function.LeftInverse operandsOf commandOf := by
  rintro (b | _ | b | ⟨b, d⟩ | _) <;> simp [commandOf, operandsOf]

theorem commandOf_operandsOf {i : Instr} (hi : i.wf = true) : commandOf (operandsOf i) = i := by
  cases i with
  | divide g d =>
    have hd : d % 512 = d := Nat.mod_eq_of_lt (of_decide_eq_true hi)
    simp [commandOf, operandsOf, hd]
  | _ => simp [commandOf, operandsOf]

theorem wf_commandOf (x : Operands) : (commandOf x).wf = true := by
  rcases x with b | _ | b | ⟨b, d⟩ | _
  case inr.inr.inr.inl => exact decide_eq_true d.isLt
  all_goals rfl

/-- Every command word is the word of exactly one choice of operands. -/
theorem commandWords_eq_range :
    {w : Word | ∃ i, decode w = .ok i} = Set.range (encode ∘ commandOf) := by
  ext w
  constructor
  · rintro ⟨i, hi⟩
    obtain ⟨hwf, hw⟩ := wf_and_encode_of_decode hi
    exact ⟨operandsOf i, by rw [Function.comp_apply, commandOf_operandsOf hwf, hw]⟩
  · rintro ⟨x, rfl⟩
    exact ⟨commandOf x, decode_encode (wf_commandOf x)⟩

theorem encode_commandOf_injective : Function.Injective (encode ∘ commandOf) := by
  intro x y h
  have hdecode : decode (encode (commandOf x)) = decode (encode (commandOf y)) := congrArg decode h
  rw [decode_encode (wf_commandOf x), decode_encode (wf_commandOf y), Except.ok.injEq] at hdecode
  exact operandsOf_commandOf.injective hdecode

theorem card_operands : Nat.card Operands = 1030 := by
  simp [Operands]

end Sys2Proof.Machine
end

section
/-!
SUPPORT. The illegal words (R75) are exactly those that decode to no command, and what each word does.
-/

namespace Sys2Proof.Machine

/-- R75's list, clause by clause. -/
def Fields.illegal (f : Fields) : Prop :=
  (f.op = 0 ∨ 0x06 ≤ f.op) ∨ f.rsv0 ≠ 0 ∨ f.rsv1 ≠ 0 ∨
    (f.imm ≠ 0 ∧ (f.op = 1 ∨ f.op = 2 ∨ f.op = 3 ∨ f.op = 5)) ∨
    (f.sel = true ∧ (f.op = 2 ∨ f.op = 5))

theorem not_illegal_instrFields (i : Instr) : ¬ (instrFields i).illegal := by
  cases i <;> simp [instrFields, Fields.illegal]

/-- Fields outside the list are those of a command. -/
theorem exists_instrFields {f : Fields} (h : ¬ f.illegal) : ∃ i, f = instrFields i := by
  obtain ⟨op, sel, rsv0, imm, rsv1⟩ := f
  simp only [Fields.illegal, not_or, not_and, not_not] at h
  obtain ⟨hop, rfl, rfl, himm, hsel⟩ := h
  have hops : op = 1 ∨ op = 2 ∨ op = 3 ∨ op = 4 ∨ op = 5 := by omega
  rcases hops with rfl | rfl | rfl | rfl | rfl
  · exact ⟨.score (maskSelOf sel), by simp_all [instrFields]⟩
  · exact ⟨.synth, by simp_all [instrFields]⟩
  · exact ⟨.extract (maskSelOf sel), by simp_all [instrFields]⟩
  · exact ⟨.divide (accSelOf sel) imm, by simp [instrFields]⟩
  · exact ⟨.matchPalette, by simp_all [instrFields]⟩

/-- A word decodes to a command exactly when it is not on the list. -/
theorem exists_decode_iff (w : Word) : (∃ i, decode w = .ok i) ↔ ¬ (wordFields w).illegal := by
  simp only [decode_eq_ok_iff]
  exact ⟨fun ⟨i, hi⟩ => hi ▸ not_illegal_instrFields i, exists_instrFields⟩

theorem execute_of_decode {w : Word} {i : Instr} (h : decode w = .ok i) (s : State) :
    execute w s = exec i s := by
  rw [execute, h]

theorem execute_illegal {w : Word} (h : (wordFields w).illegal) (s : State) :
    execute w s = .next (raiseFault .illegalCmd w s) := by
  rw [execute]
  split
  · rename_i i hi
    exact absurd h ((exists_decode_iff w).1 ⟨i, hi⟩)
  · rfl

/-- The list as R75 spells it on the bits of a word. -/
theorem illegal_wordFields_iff (w : Word) :
    (wordFields w).illegal ↔
      ((opField w = 0 ∨ (0x06 ≤ opField w ∧ opField w ≤ 0xFF)) ∨ w.extractLsb' 9 7 ≠ 0#7 ∨
        w.extractLsb' 25 7 ≠ 0#7 ∨
        (w.extractLsb' 16 9 ≠ 0#9 ∧
          (opField w = 1 ∨ opField w = 2 ∨ opField w = 3 ∨ opField w = 5)) ∨
        (w.getLsbD 8 = true ∧ (opField w = 2 ∨ opField w = 5))) := by
  have hop : opField w ≤ 0xFF := Nat.le_of_lt_succ (w.extractLsb' 0 8).isLt
  simp only [Fields.illegal, wordFields, rsv0Field, rsv1Field, immField, selField, ne_eq,
    ← BitVec.toNat_inj, BitVec.toNat_ofNat, Nat.zero_mod, hop, and_true]

end Sys2Proof.Machine
end

section
/-!
The statements of the command words (spec 30_encoding.md R70 to R75).
-/

namespace Sys2Proof.Proofs

open Sys2Proof Sys2Proof.Machine

/-- Settles O2: the fields of a command's word are the columns of R73, which is what decodes. -/
theorem decodeOfEncode : Obligations.DecodeOfEncode := fun _ => decode_encode

/-- Settles O3: two words with the same fields are the same word. -/
theorem encodeOfDecode : Obligations.EncodeOfDecode := fun _ _ => wf_and_encode_of_decode

/-- Settles O4, row by row of the table. -/
theorem decodeByMatchAndMask : Obligations.DecodeByMatchAndMask := by
  intro w
  have hall : w &&& 0xFFFFFFFF#32 = w := BitVec.and_allOnes
  rw [hall]
  exact ⟨decode_score_iff w, decode_synth_iff w, decode_extract_iff w, decode_divide_iff w,
    decode_matchPalette_iff w⟩

/-- Settles O5: the words are counted by the operands of their commands. -/
theorem countOfLegalWords : Obligations.CountOfLegalWords := by
  unfold Obligations.CountOfLegalWords
  rw [commandWords_eq_range, Set.ncard_range_of_injective encode_commandOf_injective, card_operands]

/-- Settles O6: a word on the list has no command to run, and every other word has one. -/
theorem illegalCommandFaults : Obligations.IllegalCommandFaults := by
  refine ⟨fun s w hf hw => ?illegal, fun s w hf hw => ?legal, by decide, by decide⟩
  case illegal =>
    calc hostWrite 0x004#12 w s = execute w s := hostWrite_cmd w hf
      _ = .next (raiseFault .illegalCmd w s) :=
        execute_illegal ((illegal_wordFields_iff w).2 hw) s
      _ = .next (enterFault .illegalCmd w s) := by rw [raiseFault_clear _ _ hf]
  case legal =>
    obtain ⟨i, hi⟩ := (exists_decode_iff w).2 (mt (illegal_wordFields_iff w).1 hw)
    exact ⟨i, hi, (hostWrite_cmd w hf).trans (execute_of_decode hi s)⟩

/-- Settles O1: each word is the word of its command. -/
theorem specWordsDecode : Obligations.SpecWordsDecode :=
  ⟨decode_score_mask, decode_score_bitmap, decode_synth, decode_extract_mask,
    decode_extract_bitmap, decodeOfEncode (.divide .acc0 24) rfl,
    decodeOfEncode (.divide .acc1 511) rfl, decode_match⟩

end Sys2Proof.Proofs
end

section
/-!
SUPPORT. The score as a sum (spec 40_score.md R90 to R94): SCORE writes its exact value, each pixel
adds a squared RGB difference, and the pair's common color, where there is one, leaves the mask no say.
-/

namespace Sys2Proof.Machine

theorem absdiff_sq_le (x y : Word) (k : Nat) : absdiff (ch x k) (ch y k) ^ 2 ≤ 65025 :=
  Nat.pow_le_pow_left (absdiff_le (ch_lt x k) (ch_lt y k)) 2

theorem cast_absdiff_sq (a b : Nat) : ((absdiff a b ^ 2 : Nat) : Int) = ((a : Int) - b) ^ 2 := by
  rw [absdiff, Nat.cast_pow, Int.natCast_natAbs, sq_abs]

/-- On exact integers the absolute differences of R12 are plain ones, squared (R90). -/
theorem cast_dist3 (x y : Word) :
    (dist3 x y : Int) = ∑ k ∈ Finset.range 3, ((ch x k : Int) - ch y k) ^ 2 := by
  simp only [dist3, Nat.cast_add, cast_absdiff_sq, Finset.sum_range_succ, Finset.sum_range_zero,
    zero_add]

theorem scoreTotal_eq_sum (m : Mask64) (s : State) :
    scoreTotal m s = ∑ i ∈ Finset.range 64, dist3 (selColor m s i) (pix s i) :=
  pixelSum_eq_sum _

/-- SCORE completes in every state, and its register holds the exact total (R91). -/
theorem execScore_exact (sel : MaskSel) (s : State) : ∃ v : Word,
    exec (.score sel) s = .next (s.setScore v) ∧ v.toNat = scoreTotal (maskOf sel s) s := by
  refine ⟨_, rfl, ?_⟩
  have hle := scoreTotal_le (maskOf sel s) s
  exact (BitVec.toNat_ofNat _ _).trans (Nat.mod_eq_of_lt (by omega))

theorem topByte_eq_zero {v : Word} (h : v.toNat < 2 ^ 24) : v.extractLsb' 24 8 = 0#8 := by
  refine BitVec.eq_of_toNat_eq ?_
  rw [BitVec.extractLsb'_toNat, Nat.shiftRight_eq_div_pow, Nat.div_eq_of_lt h, Nat.zero_mod]
  rfl

theorem hostRead_score (s : State) : (hostRead 0x038#12 s).2 = s.score :=
  congrArg Prod.snd (hostRead_locAddr .score s)

theorem selColor_sameRgb_bg {s : State} (h : sameRgb s.fg s.bg) (m : Mask64) (i : Nat) :
    sameRgb (selColor m s i) s.bg := by
  unfold selColor
  split
  · exact h
  · exact ⟨rfl, rfl, rfl⟩

/-- With endpoints that agree in R, G and B every pixel costs its distance to `BG`. -/
theorem scoreTotal_of_sameRgb {s : State} (h : sameRgb s.fg s.bg) (m : Mask64) :
    scoreTotal m s = pixelSum fun i => dist3 s.bg (pix s i) :=
  pixelSum_congr fun i _ => dist3_congr (selColor_sameRgb_bg h m i) ⟨rfl, rfl, rfl⟩

end Sys2Proof.Machine
end

section
/-!
SUPPORT. The frame of each operation: the registers it writes, or, where it may fault, the three fault
registers; never a byte of the arrays.
-/

namespace Sys2Proof.Machine

variable {s t : State}

theorem byteAt_of_exec {i : Instr} (h : exec i s = .next t) (b : Nat) : byteAt t b = byteAt s b := by
  obtain ⟨u, hu, heffect⟩ := exec_effect i s
  cases hu.symm.trans h
  exact heffect.byteAt_eq b

/-- The second state is the first with a fault entered: the fault registers alone may differ. -/
def FaultRegsOnly (s t : State) : Prop :=
  t = { s with fault := true, cause := t.cause, finfo := t.finfo }

/-- A raise records its fault, or finds one entered already and keeps everything (R155). -/
theorem faultRegsOnly_raiseFault (c : Cause) (info : Word) (s : State) :
    FaultRegsOnly s (raiseFault c info s) := by
  cases hf : s.fault with
  | false => rw [raiseFault_clear c info hf]; rfl
  | true =>
    rw [raiseFault_faulted c info hf, FaultRegsOnly, ← hf]

theorem execScore_frame {m : MaskSel} (h : execScore m s = .next t) : t = s.setScore t.score := by
  obtain ⟨v, hv⟩ : ∃ v, execScore m s = .next (s.setScore v) := ⟨_, rfl⟩
  cases hv.symm.trans h
  rfl

theorem execSynth_frame (h : execSynth s = .next t) : t = s.setBitmap t.bitmap := by
  obtain ⟨v, hv⟩ : ∃ v, execSynth s = .next (s.setBitmap v) := ⟨_, rfl⟩
  cases hv.symm.trans h
  rfl

theorem execExtract_frame {m : MaskSel} (h : execExtract m s = .next t) :
    t = (s.setAcc0 t.acc0).setAcc1 t.acc1 := by
  obtain ⟨u, v, huv⟩ : ∃ u v, execExtract m s = .next ((s.setAcc0 u).setAcc1 v) := ⟨_, _, rfl⟩
  cases huv.symm.trans h
  rfl

theorem execDivide_frame {g : AccSel} {d : Nat} (h : execDivide g d s = .next t) :
    t = setAccOf g (accOf g t) s ∨ FaultRegsOnly s t := by
  by_cases hd : 256 < d
  · cases (execDivide_range g s hd).symm.trans h
    exact .inr (faultRegsOnly_raiseFault _ _ s)
  · cases (execDivide_legal g s (Nat.le_of_not_lt hd)).symm.trans h
    rw [accOf_setAccOf, if_pos rfl]
    exact .inl rfl

theorem execMatch_frame (h : execMatch s = .next t) : t = s.setIndex t.index ∨ FaultRegsOnly s t := by
  by_cases h0 : s.palLen.toNat = 0
  · cases (execMatch_empty h0).symm.trans h
    exact .inr (faultRegsOnly_raiseFault _ _ s)
  by_cases h1 : s.palLen.toNat > Config.palDepth
  · cases (execMatch_long h1).symm.trans h
    exact .inr (faultRegsOnly_raiseFault _ _ s)
  · cases (execMatch_legal h0 (Nat.le_of_not_lt h1)).symm.trans h
    exact .inl rfl

end Sys2Proof.Machine
end

section
/-!
The statements of SCORE (spec 40_score.md R90 to R94) and of the operations' frames.
-/

namespace Sys2Proof.Proofs

open Sys2Proof Sys2Proof.Machine

/-- Settles O35: each operation updates its own registers or raises a fault, and none stores a
byte. -/
theorem operationFrames : Obligations.OperationFrames := by
  intro s t
  exact ⟨fun _ h => ⟨execScore_frame h, byteAt_of_exec h⟩,
    fun h => ⟨execSynth_frame h, byteAt_of_exec h⟩,
    fun _ h => ⟨execExtract_frame h, byteAt_of_exec h⟩,
    fun _ h => ⟨execDivide_frame h, byteAt_of_exec h⟩,
    fun _ h => ⟨execDivide_frame h, byteAt_of_exec h⟩,
    fun h => ⟨execMatch_frame h, byteAt_of_exec h⟩⟩

/-- Settles O38: the exact total is a sum of distances, and each distance the sum of its squares. -/
theorem scoreWritesSum : Obligations.ScoreWritesSum := by
  intro sel s
  obtain ⟨v, hexec, hv⟩ := execScore_exact sel s
  refine ⟨v, hexec, ?_⟩
  rw [hv, scoreTotal_eq_sum, Nat.cast_sum]
  exact Finset.sum_congr rfl fun i _ => cast_dist3 _ _

/-- Settles O39: the distance to the selected endpoint is the selected one of two distances. -/
theorem scoreIsSumOfPixelCosts : Obligations.ScoreIsSumOfPixelCosts := by
  intro sel s
  obtain ⟨v, hexec, hv⟩ := execScore_exact sel s
  refine ⟨_, hexec, ?_⟩
  rw [setScore_score, hv, scoreTotal_eq_sum]
  exact Finset.sum_congr rfl fun i _ => apply_ite (dist3 · (pix s i)) _ _ _

/-- Settles O40: the total is exact in the register, so the bound of R91 is the register's. -/
theorem scoreRange : Obligations.ScoreRange := by
  intro sel s
  obtain ⟨v, hexec, hv⟩ := execScore_exact sel s
  have hle := scoreTotal_le (maskOf sel s) s
  have hlt : v.toNat < 2 ^ 24 := by omega
  refine ⟨absdiff_sq_le, hle, _, hexec, hv, hlt, ?_⟩
  rw [hostRead_score, setScore_score]
  exact topByte_eq_zero hlt

/-- Settles O41: either mask gives the sum of the distances to `BG`, of the same pixels. -/
theorem equalEndpointsIgnoreMask : Obligations.EqualEndpointsIgnoreMask := by
  intro s m sel sel' hrgb
  obtain ⟨v, hexec, hv⟩ := execScore_exact sel s
  obtain ⟨v', hexec', hv'⟩ := execScore_exact sel' { s with mask := m }
  refine ⟨_, _, hexec, hexec', BitVec.eq_of_toNat_eq ?_⟩
  rw [setScore_score, setScore_score, hv, hv', scoreTotal_of_sameRgb hrgb,
    scoreTotal_of_sameRgb (s := { s with mask := m }) hrgb]
  exact pixelSum_congr fun i _ => congrArg (dist3 s.bg) (pix_congr rfl rfl i)

end Sys2Proof.Proofs
end

section
/-!
SUPPORT. The synthesized bit (spec 41_synth.md R100 to R102): when it is set, what it costs, and the
least score it gives.
-/

namespace Sys2Proof.Machine

/-- SYNTH completes in every state; bit i of the new bitmap is the bit of pixel i (R100, R103). -/
theorem execSynth_exact (s : State) : ∃ b : Mask64,
    exec .synth s = .next (s.setBitmap b) ∧ ∀ i, i < 64 → b.getLsbD i = synthBit s i := by
  refine ⟨_, rfl, fun i hi => ?_⟩
  rw [getLsbD_packBits, decide_eq_true hi, Bool.true_and]

theorem synthBit_iff (s : State) (i : Nat) :
    synthBit s i = true ↔ dist3 (pix s i) s.bg > dist3 (pix s i) s.fg :=
  decide_eq_true_iff

theorem synthBit_tie {s : State} {i : Nat} (h : dist3 (pix s i) s.bg = dist3 (pix s i) s.fg) :
    synthBit s i = false :=
  decide_eq_false h.not_gt

theorem synthBit_swap {s : State} {i : Nat} (h : dist3 (pix s i) s.bg ≠ dist3 (pix s i) s.fg) :
    synthBit { s with fg := s.bg, bg := s.fg } i = !synthBit s i := by
  have hswap : synthBit { s with fg := s.bg, bg := s.fg } i = true ↔
      dist3 (pix s i) s.fg > dist3 (pix s i) s.bg := synthBit_iff _ i
  rw [Bool.eq_not, ne_eq, Bool.eq_iff_iff, hswap, synthBit_iff]
  omega

theorem min_le_pixelCost (s : State) (i : Nat) (b : Bool) :
    min (dist3 s.bg (pix s i)) (dist3 s.fg (pix s i)) ≤ pixelCost s i b := by
  cases b with
  | false => exact min_le_left _ _
  | true => exact min_le_right _ _

/-- A bit has the smaller cost when the pixel ties or it is the bit SYNTH gives, never else (R101). -/
theorem min_eq_pixelCost_iff (s : State) (i : Nat) (b : Bool) :
    min (dist3 s.bg (pix s i)) (dist3 s.fg (pix s i)) = pixelCost s i b ↔
      dist3 s.bg (pix s i) = dist3 s.fg (pix s i) ∨ b = synthBit s i := by
  have hbit := synthBit_iff s i
  rw [dist3_comm _ s.bg, dist3_comm _ s.fg] at hbit
  cases b with
  | false =>
    rw [pixelCost, if_neg Bool.false_ne_true, min_eq_left_iff, Eq.comm (a := false),
      ← Bool.not_eq_true, hbit]
    omega
  | true =>
    rw [pixelCost, if_pos rfl, min_eq_right_iff, Eq.comm (a := true), hbit]
    omega

theorem scoreTotal_eq_sum_pixelCost (m : Mask64) (s : State) :
    scoreTotal m s = ∑ i ∈ Finset.range 64, pixelCost s i (m.getLsbD i) :=
  (scoreTotal_eq_sum m s).trans <|
    Finset.sum_congr rfl fun i _ => apply_ite (dist3 · (pix s i)) _ _ _

theorem sum_min_le_scoreTotal (m : Mask64) (s : State) :
    ∑ i ∈ Finset.range 64, min (dist3 s.bg (pix s i)) (dist3 s.fg (pix s i)) ≤ scoreTotal m s := by
  rw [scoreTotal_eq_sum_pixelCost]
  exact Finset.sum_le_sum fun i _ => min_le_pixelCost s i _

/-- The masks of least score: untied pixels have the bit SYNTH gives them (R101). -/
theorem sum_min_eq_scoreTotal_iff (m : Mask64) (s : State) :
    ∑ i ∈ Finset.range 64, min (dist3 s.bg (pix s i)) (dist3 s.fg (pix s i)) = scoreTotal m s ↔
      ∀ i, i < 64 → dist3 s.bg (pix s i) = dist3 s.fg (pix s i) ∨ m.getLsbD i = synthBit s i := by
  rw [scoreTotal_eq_sum_pixelCost,
    Finset.sum_eq_sum_iff_of_le fun i _ => min_le_pixelCost s i _]
  simp only [Finset.mem_range, min_eq_pixelCost_iff]

/-- The score of a given mask depends on neither mask register. -/
theorem scoreTotal_setBitmap (m b : Mask64) (s : State) :
    scoreTotal m (s.setBitmap b) = scoreTotal m s :=
  scoreTotal_congr ⟨rfl, rfl, rfl⟩ ⟨rfl, rfl, rfl⟩ (fun _ _ => ⟨rfl, rfl, rfl⟩) m

theorem scoreTotal_setMask (m b : Mask64) (s : State) :
    scoreTotal m (s.setMask b) = scoreTotal m s :=
  scoreTotal_congr ⟨rfl, rfl, rfl⟩ ⟨rfl, rfl, rfl⟩ (fun _ _ => ⟨rfl, rfl, rfl⟩) m

end Sys2Proof.Machine
end

section
/-!
The statements of SYNTH (spec 41_synth.md R100 to R103).
-/

namespace Sys2Proof.Proofs

open Sys2Proof Sys2Proof.Machine

/-- Settles O43: bit i compares two distances, and each is the sum of its squares. -/
theorem synthSetsStrictlyNearer : Obligations.SynthSetsStrictlyNearer := by
  intro s
  obtain ⟨b, hexec, hb⟩ := execSynth_exact s
  refine ⟨b, hexec, fun i hi => ?_⟩
  rw [hb i hi, synthBit_iff, ← cast_dist3, ← cast_dist3, gt_iff_lt, gt_iff_lt, Nat.cast_lt]

/-- Settles O44: every pixel's bit costs at least the smaller distance, so a sum of costs is least
exactly when every pixel's cost is. -/
theorem synthMinimisesScore : Obligations.SynthMinimisesScore := by
  intro s
  obtain ⟨b, hsynth, hb⟩ := execSynth_exact s
  obtain ⟨w, hscore, hw⟩ := execScore_exact .bitmap (s.setBitmap b)
  have hleast : w.toNat = ∑ i ∈ Finset.range 64,
      min (dist3 s.bg (pix s i)) (dist3 s.fg (pix s i)) := by
    rw [hw, scoreTotal_setBitmap]
    exact ((sum_min_eq_scoreTotal_iff b s).mpr fun i hi => .inr (hb i hi)).symm
  refine ⟨_, _, hsynth, hscore, hleast, fun i hi htie => ?tied, fun m => ?minimal⟩
  case tied =>
    rw [setBitmap_bitmap, hb i hi]
    exact synthBit_tie (by rw [dist3_comm, htie, dist3_comm])
  case minimal =>
    obtain ⟨v, hother, hv⟩ := execScore_exact .mask (s.setMask m)
    have hv : v.toNat = scoreTotal m s := hv.trans (scoreTotal_setMask m m s)
    refine ⟨_, hother, ?_, ?_⟩
    · rw [setScore_score, setScore_score, hleast, hv]
      exact sum_min_le_scoreTotal m s
    · rw [setScore_score, setScore_score, hleast, hv, sum_min_eq_scoreTotal_iff, setBitmap_bitmap]
      exact forall₂_congr fun i hi => by rw [hb i hi]

/-- Settles O45: swapping the endpoints turns the strict comparison round, and equal endpoints tie at
every pixel. -/
theorem synthSwapAndTies : Obligations.SynthSwapAndTies := by
  intro s
  obtain ⟨b, hexec, hb⟩ := execSynth_exact s
  obtain ⟨b', hexec', hb'⟩ := execSynth_exact { s with fg := s.bg, bg := s.fg }
  refine ⟨_, _, hexec, hexec', fun i hi => ⟨fun hne => ?untied, fun htie => ⟨?swapped, ?tied⟩⟩,
    fun hrgb => mask_ext fun i hi => ?equal⟩
  case untied => exact (hb' i hi).trans ((synthBit_swap hne).trans (congrArg _ (hb i hi).symm))
  case swapped => exact (hb' i hi).trans (synthBit_tie htie.symm)
  case tied => exact (hb i hi).trans (synthBit_tie htie)
  case equal =>
    have htie := dist3_congr (x := pix s i) ⟨rfl, rfl, rfl⟩ hrgb
    rw [setBitmap_bitmap, hb i hi, synthBit_tie htie.symm, BitVec.getLsbD_zero]

end Sys2Proof.Proofs
end

section
/-!
SUPPORT. The groups of EXTRACT (spec 42_extract.md R110 to R112): the accumulators hold the exact
sums, each pixel belongs to one group, and a group's sum is bounded by its pixels.
-/

namespace Sys2Proof.Machine

theorem cast_groupSum_false (m : Mask64) (s : State) (k : Fin 4) : (groupSum m false s k : Int) =
    ∑ i ∈ Finset.range 64, if m.getLsbD i then 0 else (ch (pix s i) k : Int) := by
  rw [groupSum, pixelSum_eq_sum, Nat.cast_sum]
  refine Finset.sum_congr rfl fun i _ => ?_
  cases m.getLsbD i <;> rfl

theorem cast_groupSum_true (m : Mask64) (s : State) (k : Fin 4) : (groupSum m true s k : Int) =
    ∑ i ∈ Finset.range 64, if m.getLsbD i then (ch (pix s i) k : Int) else 0 := by
  rw [groupSum, pixelSum_eq_sum, Nat.cast_sum]
  exact Finset.sum_congr rfl fun i _ => Nat.cast_ite _ _ _

/-- Each pixel adds to exactly one of the two sums (R111). -/
theorem groupSum_false_add_true (m : Mask64) (s : State) (k : Fin 4) :
    groupSum m false s k + groupSum m true s k = ∑ i ∈ Finset.range 64, ch (pix s i) k := by
  rw [groupSum, groupSum, ← pixelSum_add, ← pixelSum_eq_sum]
  refine pixelSum_congr fun i _ => ?_
  cases m.getLsbD i with
  | false => exact Nat.add_zero _
  | true => exact Nat.zero_add _

/-- Each pixel counts in exactly one of the two groups (R112). -/
theorem groupCount_true_add_false (m : Mask64) : groupCount m true + groupCount m false = 64 := by
  have hone (i : Nat) : ((if m.getLsbD i = true then 1 else 0) +
      if m.getLsbD i = false then 1 else 0) = 1 := by
    cases m.getLsbD i <;> rfl
  rw [groupCount, groupCount, ← pixelSum_add, pixelSum_congr fun i _ => hone i]
  rfl

theorem pixelSum_mul_left (c : Nat) (f : Nat → Nat) :
    pixelSum (fun i => c * f i) = c * pixelSum f := by
  simp only [pixelSum_eq_sum, Finset.mul_sum]

/-- A pixel of the group adds at most 255, any other pixel nothing (R112). -/
theorem groupSum_le_groupCount (m : Mask64) (b : Bool) (s : State) (k : Fin 4) :
    groupSum m b s k ≤ 255 * groupCount m b := by
  rw [groupSum, groupCount, ← pixelSum_mul_left]
  refine pixelSum_le fun i _ => ?_
  split
  · exact Nat.le_of_lt_succ (ch_lt _ _)
  · exact Nat.zero_le _

theorem groupSum_le (m : Mask64) (b : Bool) (s : State) (k : Fin 4) : groupSum m b s k ≤ 16320 := by
  have hgroup := groupSum_le_groupCount m b s k
  have htotal := groupCount_true_add_false m
  cases b <;> omega

/-- The upper 18 bits of a channel are clear, so its signed value is the sum as well (R112). -/
theorem toInt_eq_groupSum {w : Word} {m : Mask64} {b : Bool} {s : State} {k : Fin 4}
    (h : w.toNat = groupSum m b s k) : w.toInt = groupSum m b s k := by
  have hle := groupSum_le m b s k
  rw [BitVec.toInt_eq_toNat_of_lt (by omega), h]

theorem accChan_groupAcc_toNat (m : Mask64) (b : Bool) (s : State) (k : Fin 4) :
    (accChan (groupAcc m b s) k).toNat = groupSum m b s k := by
  have hle := groupSum_le m b s k
  rw [groupAcc, accChan_accOfChans, BitVec.toNat_ofNat, Nat.mod_eq_of_lt (by omega)]

/-- EXTRACT completes in every state, and each channel holds its group's exact sum (R110). -/
theorem execExtract_exact (sel : MaskSel) (s : State) : ∃ u v : Acc,
    exec (.extract sel) s = .next ((s.setAcc0 u).setAcc1 v) ∧
      ∀ k, (accChan u k).toNat = groupSum (maskOf sel s) false s k ∧
        (accChan v k).toNat = groupSum (maskOf sel s) true s k :=
  ⟨_, _, rfl, fun k => ⟨accChan_groupAcc_toNat _ false s k, accChan_groupAcc_toNat _ true s k⟩⟩

end Sys2Proof.Machine
end

section
/-!
The statements of EXTRACT (spec 42_extract.md R110 to R112).
-/

namespace Sys2Proof.Proofs

open Sys2Proof Sys2Proof.Machine

/-- Settles O46: each channel holds its group's sum, and the mask bit says which pixels add to it. -/
theorem extractWritesGroupSums : Obligations.ExtractWritesGroupSums := by
  intro sel s
  obtain ⟨u, v, hexec, hsum⟩ := execExtract_exact sel s
  refine ⟨u, v, hexec, fun k => ?_⟩
  obtain ⟨hbackground, hforeground⟩ := hsum k
  exact ⟨(toInt_eq_groupSum hbackground).trans (cast_groupSum_false _ s k),
    (toInt_eq_groupSum hforeground).trans (cast_groupSum_true _ s k)⟩

/-- Settles O47: the two groups share out the pixels of the block. -/
theorem extractConserves : Obligations.ExtractConserves := by
  intro sel s
  obtain ⟨u, v, hexec, hsum⟩ := execExtract_exact sel s
  refine ⟨_, hexec, fun k => ?_⟩
  obtain ⟨hbackground, hforeground⟩ := hsum k
  rw [setAcc1_acc0, setAcc0_acc0, setAcc1_acc1, toInt_eq_groupSum hbackground,
    toInt_eq_groupSum hforeground, ← Nat.cast_add, groupSum_false_add_true, Nat.cast_sum]

/-- Settles O48: a group's sum is at most 255 for each of its pixels, and the two groups have 64
pixels together. -/
theorem extractRange : Obligations.ExtractRange := by
  intro sel s
  obtain ⟨u, v, hexec, hsum⟩ := execExtract_exact sel s
  refine ⟨_, hexec, groupCount_true_add_false _, fun k => ?_⟩
  obtain ⟨hbackground, hforeground⟩ := hsum k
  rw [setAcc1_acc0, setAcc0_acc0, setAcc1_acc1, toInt_eq_groupSum hbackground,
    toInt_eq_groupSum hforeground, hbackground, hforeground]
  exact ⟨groupSum_le _ _ _ _, groupSum_le _ _ _ _, Int.natCast_nonneg _, Int.natCast_nonneg _,
    mod_cast groupSum_le_groupCount _ _ _ _, mod_cast groupSum_le_groupCount _ _ _ _⟩

end Sys2Proof.Proofs
end

section
/-!
SUPPORT. The Reciprocal Table (spec 43_divide.md R121, R122): its entries as floors and what they lose
to 32768 / d.
-/

namespace Sys2Proof.Machine

@[simp] theorem recip_zero : recip 0 = 0 := rfl

theorem recip_of_pos {d : Nat} (hd : 0 < d) : recip d = 32768 / d := if_neg hd.ne'

theorem cast_recip (d : Nat) : (recip d : Int) = if d = 0 then 0 else 32768 / (d : Int) := by
  rw [recip]
  split
  · rfl
  · exact Int.natCast_ediv 32768 d

theorem recip_mul_le (d : Nat) : recip d * d ≤ 32768 := by
  obtain rfl | hd := d.eq_zero_or_pos
  · exact Nat.zero_le _
  · rw [recip_of_pos hd]
    exact Nat.div_mul_le_self 32768 d

theorem lt_recip_succ_mul {d : Nat} (hd : 0 < d) : 32768 < (recip d + 1) * d := by
  rw [recip_of_pos hd]
  exact Nat.lt_mul_of_div_lt (Nat.lt_succ_self _) hd

theorem recip_anti {d e : Nat} (hd : 0 < d) (hde : d ≤ e) : recip e ≤ recip d := by
  rw [recip_of_pos hd, recip_of_pos (hd.trans_le hde)]
  exact Nat.div_le_div_left hde hd

/-- Only `RECIP[1]` needs 16 bits. -/
theorem recip_lt {d : Nat} (hd : d ≠ 1) : recip d < 32768 := by
  obtain rfl | hpos := d.eq_zero_or_pos
  · decide
  · rw [recip_of_pos hpos]
    exact Nat.div_lt_self (by decide) (by omega)

theorem recip_two_pow {j : Nat} (hj : j ≤ 15) : recip (2 ^ j) = 2 ^ (15 - j) := by
  rw [recip_of_pos (Nat.two_pow_pos j)]
  exact Nat.pow_div hj two_pos

/-- Up to divisor 74 the entry times the divisor falls short of 32768 by at most 64; at 75 it is 68
(R126). -/
theorem le_recip_mul_add {d : Nat} (hpos : 0 < d) (hd : d ≤ 74) : 32768 ≤ recip d * d + 64 := by
  have hmod : ∀ e < 75, 0 < e → 32768 % e ≤ 64 := by decide
  have hle := hmod d (by omega) hpos
  rw [recip_of_pos hpos]
  have hdiv := Nat.div_add_mod' 32768 d
  omega

end Sys2Proof.Machine
end

section
/-!
SUPPORT. The Divider's quotient against true division (spec 43_divide.md R123 to R127): its two
bounds, the entries that divide exactly, and its distance from the true quotient.
-/

namespace Sys2Proof.Machine

/-- The quotient is the floor, as two inequalities (R120). -/
theorem divQuot_bounds (t : Nat) (s : Int) :
    divQuot t s * 32768 ≤ s * t + 16384 ∧ s * t + 16384 < divQuot t s * 32768 + 32768 := by
  rw [divQuot_eq]
  omega

@[simp] theorem divQuot_zero (s : Int) : divQuot 0 s = 0 := by
  rw [divQuot_eq, Nat.cast_zero, mul_zero]
  rfl

theorem divQuot_recip_one (s : Int) : divQuot (recip 1) s = s := by
  have hone : (recip 1 : Int) = 32768 := rfl
  rw [divQuot_eq, hone]
  omega

/-- An entry that is exactly 32768 / (2 c) rounds half up at c (R127). -/
theorem divQuot_of_mul_eq {t c : Nat} (h : t * (2 * c) = 32768) (s : Int) :
    divQuot t s = (s + c) / ((2 * c : Nat) : Int) := by
  have ht : 0 < (t : Int) := by
    rw [Int.natCast_pos, Nat.pos_iff_ne_zero]
    rintro rfl
    omega
  have hscale : (32768 : Int) = t * ((2 * c : Nat) : Int) := by exact_mod_cast h.symm
  have hhalf : (16384 : Int) = t * c := by push_cast at hscale; linarith
  rw [divQuot_eq, hscale, hhalf, mul_comm s, ← mul_add, Int.mul_ediv_mul_of_pos _ _ ht]

/-- Rounding half up by an even divisor adds half of it (R127). -/
theorem roundHalfUp_two_mul (s : Int) (c : Nat) :
    roundHalfUp s ((2 * c : Nat) : Int) = (s + c) / ((2 * c : Nat) : Int) := by
  rw [roundHalfUp, Nat.cast_mul, Nat.cast_two, ← mul_add, Int.mul_ediv_mul_of_pos _ _ two_pos]

theorem mul_recip_mul_le {s : Int} (hs : 0 ≤ s) (d : Nat) : s * recip d * d ≤ s * 32768 := by
  rw [mul_assoc]
  exact mul_le_mul_of_nonneg_left (mod_cast recip_mul_le d) hs

/-- The quotient is at most half above the true one (R125). -/
theorem two_mul_divQuot_mul_le {s : Int} (hs : 0 ≤ s) (d : Nat) :
    2 * (divQuot (recip d) s * d) ≤ 2 * s + d := by
  have hfloor := mul_le_mul_of_nonneg_right (divQuot_bounds (recip d) s).1 (Int.natCast_nonneg d)
  have hentry := mul_recip_mul_le hs d
  linarith

theorem divQuot_le_roundHalfUp {s : Int} {d : Nat} (hd : 0 < d) (hs : 0 ≤ s) :
    divQuot (recip d) s ≤ roundHalfUp s d := by
  have hle := two_mul_divQuot_mul_le hs d
  rw [roundHalfUp, Int.le_ediv_iff_mul_le (by omega)]
  linarith

theorem roundHalfUp_le_255 {s : Int} {d : Nat} (hd : 0 < d) (hs : s ≤ 255 * d) :
    roundHalfUp s d ≤ 255 := by
  rw [roundHalfUp, ← Int.lt_add_one_iff, Int.ediv_lt_iff_lt_mul (by omega)]
  omega

/-- A valid sum loses at most 255 d × 64 < 2^14 d to an entry of divisor up to 74, so the quotient is
at most 1 below the true one (R126). -/
theorem le_divQuot_mul_add {s : Int} {d : Nat} (hpos : 0 < d) (hd : d ≤ 74) (hs : 0 ≤ s)
    (hvalid : s ≤ 255 * d) : s ≤ divQuot (recip d) s * d + d := by
  have hentry : (32768 : Int) ≤ recip d * d + 64 := mod_cast le_recip_mul_add hpos hd
  have hloss := mul_le_mul_of_nonneg_left hentry hs
  have hfloor := mul_lt_mul_of_pos_right (divQuot_bounds (recip d) s).2 (Int.natCast_pos.2 hpos)
  linarith

theorem abs_divQuot_mul_sub_le {s : Int} {d : Nat} (hpos : 0 < d) (hd : d ≤ 74) (hs : 0 ≤ s)
    (hvalid : s ≤ 255 * d) : |divQuot (recip d) s * d - s| ≤ d := by
  have hlow := le_divQuot_mul_add hpos hd hs hvalid
  have hhigh := two_mul_divQuot_mul_le hs d
  rw [abs_le]
  omega

end Sys2Proof.Machine
end

section
/-!
SUPPORT. What DIVIDE does to a state (spec 43_divide.md R120), and the widths of its product (R123).
-/

namespace Sys2Proof.Machine

theorem setAccOf_fault (g : AccSel) (v : Acc) (s : State) : (setAccOf g v s).fault = s.fault := by
  cases g <;> rfl

theorem setAccOf_accOf (g : AccSel) (s : State) : setAccOf g (accOf g s) s = s := by
  cases g <;> rfl

/-- DIVIDE by a legal divisor completes in every state, and each channel of the selected accumulator
holds its exact quotient (R120, R123). -/
theorem exec_divide_exact (g : AccSel) {d : Nat} (hd : d ≤ 256) (s : State) : ∃ v : Acc,
    exec (.divide g d) s = .next (setAccOf g v s) ∧
      ∀ k, (accChan v k).toInt = divQuot (recip d) (accChan (accOf g s) k).toInt := by
  refine ⟨_, execDivide_legal g s hd, fun k => ?_⟩
  rw [accChan_accOfChans, divChan_toInt]

/-- DIVIDE as its successor state shows it: the selected accumulator is the one just divided. -/
theorem exec_divide_channels (g : AccSel) {d : Nat} (hd : d ≤ 256) (s : State) :
    ∃ t, exec (.divide g d) s = .next t ∧ t.fault = s.fault ∧
      ∀ k, (accChan (accOf g t) k).toInt =
        divQuot (recip d) (accChan (accOf g s) k).toInt := by
  obtain ⟨v, hexec, hv⟩ := exec_divide_exact g hd s
  refine ⟨_, hexec, setAccOf_fault g v s, ?_⟩
  rwa [accOf_setAccOf, if_pos rfl]

theorem encode_divide (g : AccSel) {d : Nat} (hd : d < 512) :
    encode (.divide g d) = BitVec.ofNat 32 (4 + 0x100 * accSelBit g + 0x10000 * d) := by
  rw [encode, formatC, Nat.mod_eq_of_lt hd]

/-- A divisor above the table raises DIV_RANGE with its own command word (R120, R151). -/
theorem exec_divide_range (g : AccSel) {d : Nat} {s : State} (hd : 256 < d) (hf : s.fault = false) :
    exec (.divide g d) s = .next (enterFault .divRange (encode (.divide g d)) s) := by
  rw [← raiseFault_clear _ _ hf]
  exact execDivide_range g s hd

/-- A channel is at most 2^31 in size and an entry at most 2^15 (R123). -/
theorem abs_toInt_mul_recip_le (w : Word) (d : Nat) : |w.toInt * (recip d : Int)| ≤ 2 ^ 46 := by
  have hw : |w.toInt| ≤ 2 ^ 31 := abs_le.2 ⟨BitVec.le_toInt w, (BitVec.toInt_lt (x := w)).le⟩
  have ht : (recip d : Int) ≤ 2 ^ 15 := mod_cast recip_le d
  calc |w.toInt * (recip d : Int)| = |w.toInt| * recip d := by rw [abs_mul, Nat.abs_cast]
    _ ≤ 2 ^ 31 * 2 ^ 15 := mul_le_mul hw ht (Int.natCast_nonneg _) (by decide)
    _ = 2 ^ 46 := by norm_num

end Sys2Proof.Machine
end

section
/-!
The statements of DIVIDE and the Reciprocal Table (spec 43_divide.md R120 to R128).
-/

namespace Sys2Proof.Proofs

open Sys2Proof Sys2Proof.Machine

/-- Settles O49: the quotient the Divider stores is exact, and its table entry is R122's formula. -/
theorem divideWritesQuotients : Obligations.DivideWritesQuotients := by
  intro d s hd
  simp only [← cast_recip, ← divQuot_eq]
  exact ⟨exec_divide_exact .acc0 hd s, exec_divide_exact .acc1 hd s⟩

/-- Settles O50: the fault's word is the command's own, whose divisor field holds all of d. -/
theorem divideRangeFaults : Obligations.DivideRangeFaults := by
  intro d s hlow hhigh hf
  rw [exec_divide_range .acc0 hlow hf, exec_divide_range .acc1 hlow hf, encode_divide _ hhigh,
    encode_divide _ hhigh]
  exact ⟨rfl, rfl⟩

/-- Settles O51: entry 0 leaves the rounding bias alone, and that is less than 1. -/
theorem divideByZeroGivesZero : Obligations.DivideByZeroGivesZero := by
  refine ⟨recip_zero, fun g s => ?_⟩
  obtain ⟨t, hexec, hfault, hchan⟩ := exec_divide_channels g (Nat.zero_le 256) s
  refine ⟨t, hexec, hfault, fun k => BitVec.eq_of_toInt_eq ?_⟩
  rw [hchan, recip_zero, divQuot_zero, BitVec.toInt_zero]

/-- Settles O52: the product is bounded by its factors, and the quotient by the dividend. -/
theorem divideNeverOverflows : Obligations.DivideNeverOverflows := by
  intro g d s hd
  obtain ⟨t, hexec, -, hchan⟩ := exec_divide_channels g hd s
  refine ⟨t, hexec, fun k => ⟨_, _, _, rfl, rfl, rfl, ?_⟩⟩
  have hproduct := abs_toInt_mul_recip_le (accChan (accOf g s) k) d
  obtain ⟨hlow, hhigh⟩ := divQuot_between d (accChan (accOf g s) k).toInt
  rw [hchan]
  refine ⟨hproduct, ?biased, divQuot_eq _ _, hlow, hhigh, fun h0 hsum => ?extracted⟩
  case biased =>
    obtain ⟨hmin, hmax⟩ := abs_le.1 hproduct
    exact abs_lt.2 ⟨by omega, by omega⟩
  case extracted =>
    have hentry : (recip d : Int) ≤ 32768 := mod_cast recip_le d
    have hle := mul_le_mul hsum hentry (Int.natCast_nonneg _) (by decide)
    omega

/-- Settles O53: the entry of 2^j times 2^j is 32768, so the shift divides by 2^j and the bias is its
half. -/
theorem dividePowersOfTwoExact : Obligations.DividePowersOfTwoExact := by
  refine ⟨fun j hj => recip_two_pow (by omega), fun g j s h1 hj => ?rounds, fun g s => ?byOne⟩
  case rounds =>
    obtain ⟨i, rfl⟩ := Nat.exists_eq_add_of_le' h1
    have hd : 2 ^ (i + 1) ≤ 256 := Nat.pow_le_pow_right two_pos hj
    have hentry : recip (2 ^ (i + 1)) * (2 * 2 ^ i) = 32768 := by
      rw [recip_two_pow (by omega), ← pow_succ', ← pow_add, Nat.sub_add_cancel (by omega)]
      rfl
    obtain ⟨t, hexec, -, hchan⟩ := exec_divide_channels g hd s
    have hdivisor : (2 : Int) ^ (i + 1) = ((2 * 2 ^ i : Nat) : Int) := by
      rw [← pow_succ', Nat.cast_pow, Nat.cast_two]
    refine ⟨t, hexec, fun k => ?_⟩
    rw [hchan, Nat.add_sub_cancel, hdivisor, roundHalfUp_two_mul, divQuot_of_mul_eq hentry,
      Nat.cast_pow, Nat.cast_two]
    exact ⟨rfl, rfl⟩
  case byOne =>
    obtain ⟨v, hexec, hv⟩ := exec_divide_exact g (d := 1) (by decide) s
    have hsame : v = accOf g s := acc_ext fun k =>
      BitVec.eq_of_toInt_eq ((hv k).trans (divQuot_recip_one _))
    rw [hexec, hsame, setAccOf_accOf]

/-- Settles O54: an entry is at most 32768 / d, and up to divisor 74 less than it by at most 64 / d. -/
theorem divideAccuracy : Obligations.DivideAccuracy := by
  refine ⟨fun g d s k hpos hd hs hvalid => ?_, by decide, by decide⟩
  obtain ⟨t, hexec, -, hchan⟩ := exec_divide_channels g hd s
  have hround := divQuot_le_roundHalfUp hpos hs
  refine ⟨t, hexec, ?_⟩
  rw [hchan]
  exact ⟨le_trans (le_min hs le_rfl) (divQuot_between d _).1, hround,
    hround.trans (roundHalfUp_le_255 hpos hvalid),
    fun hsmall => abs_divQuot_mul_sub_le hpos hsmall hs hvalid⟩

/-- Settles O55: an entry is a floor, so it is within 1 of 32768 / d and falls as d grows; the sum is
computed. -/
theorem reciprocalTableEntries : Obligations.ReciprocalTableEntries :=
  ⟨recip_zero, fun d hpos _ => ⟨recip_mul_le d, lt_recip_succ_mul hpos⟩,
    fun _ _ hpos hde => recip_anti hpos hde, by decide +kernel, rfl, fun _ hd => recip_lt hd⟩

end Sys2Proof.Proofs
end

section
/-!
SUPPORT. MATCH as its caller sees it (spec 44_match.md R140, R141): the index it stores at a legal
palette length, read back, and the faults of the other lengths.
-/

namespace Sys2Proof.Machine

/-- MATCH at a legal length completes, and its register holds the nearest index exactly (R140). -/
theorem exec_match_exact {s : State} (h1 : 1 ≤ s.palLen.toNat) (h256 : s.palLen.toNat ≤ 256) :
    ∃ v : Word, exec .matchPalette s = .next (s.setIndex v) ∧
      v.toNat = nearest (targetDist s) s.palLen.toNat := by
  refine ⟨_, execMatch_legal (Nat.ne_of_gt h1) h256, ?_⟩
  have hlt := (nearest_spec (targetDist s) h1).1
  exact (BitVec.toNat_ofNat _ _).trans (Nat.mod_eq_of_lt (by omega))

/-- A palette of one entry leaves nothing to scan. -/
theorem nearest_one (dist : Nat → Nat) : nearest dist 1 = 0 := rfl

theorem hostRead_index (s : State) : (hostRead 0x03C#12 s).2 = s.index :=
  congrArg Prod.snd (hostRead_locAddr .index s)

/-- From bit k up a value below 2^k holds only 0. -/
theorem extractLsb'_eq_zero_of_lt {w k : Nat} {v : BitVec w} (n : Nat) (h : v.toNat < 2 ^ k) :
    v.extractLsb' k n = 0#n := by
  refine BitVec.eq_of_toNat_eq ?_
  rw [BitVec.extractLsb'_toNat, Nat.shiftRight_eq_div_pow, Nat.div_eq_of_lt h, Nat.zero_mod,
    BitVec.toNat_zero]

theorem exec_match_empty {s : State} (h : s.palLen = 0#32) (hf : s.fault = false) :
    exec .matchPalette s = .next (enterFault .palEmpty (encode .matchPalette) s) := by
  rw [← raiseFault_clear _ _ hf]
  exact execMatch_empty (congrArg BitVec.toNat h)

theorem exec_match_long {s : State} (h : 256 < s.palLen.toNat) (hf : s.fault = false) :
    exec .matchPalette s = .next (enterFault .palRange (encode .matchPalette) s) := by
  rw [← raiseFault_clear _ _ hf]
  exact execMatch_long h

end Sys2Proof.Machine
end

section
/-!
The statements of MATCH (spec 44_match.md R140, R141).
-/

namespace Sys2Proof.Proofs

open Sys2Proof Sys2Proof.Machine

/-- Settles O56: the scan's answer is the lowest nearest index below `PAL_LEN`. -/
theorem matchFindsLowestNearest : Obligations.MatchFindsLowestNearest := fun s h1 h256 =>
  ⟨_, execMatch_legal (Nat.ne_of_gt h1) h256, nearest_spec (targetDist s) h1⟩

/-- Settles O58: the index stored is below `PAL_LEN`, so it fits the low byte. -/
theorem matchIndexRange : Obligations.MatchIndexRange := by
  intro s h1 h256
  obtain ⟨v, hexec, hv⟩ := exec_match_exact h1 h256
  have hlt : v.toNat < s.palLen.toNat := hv ▸ (nearest_spec (targetDist s) h1).1
  refine ⟨_, hexec, ?_, by omega, ?_⟩
  · rw [setIndex_index]
    omega
  · rw [hostRead_index, setIndex_index]
    exact extractLsb'_eq_zero_of_lt 24 (by omega)

/-- Settles O59: index 0 is all a one-entry scan can answer, and a longer scan takes the same
distances in both states. -/
theorem matchReadsOnlyThePalette : Obligations.MatchReadsOnlyThePalette := by
  refine ⟨fun s hone => ?oneEntry, fun s s' hlen htarget h1 h256 hpal => ?beyond⟩
  case oneEntry =>
    have hn : s.palLen.toNat = 1 := congrArg BitVec.toNat hone
    obtain ⟨v, hexec, hv⟩ := exec_match_exact hn.ge (by omega)
    rw [hn, nearest_one] at hv
    rw [hexec, BitVec.eq_of_toNat_eq (y := 0#32) hv]
    rfl
  case beyond =>
    obtain ⟨v, hexec, hv⟩ := exec_match_exact h1 h256
    obtain ⟨v', hexec', hv'⟩ := exec_match_exact (hlen ▸ h1) (hlen ▸ h256)
    have hdist : ∀ j, j < s.palLen.toNat → targetDist s j = targetDist s' j := fun j hj =>
      congrArg₂ dist3 htarget (hpal j hj)
    refine ⟨_, _, hexec, hexec', BitVec.eq_of_toNat_eq ?_⟩
    rw [setIndex_index, setIndex_index, hv, hv', ← hlen, nearest_congr h1 hdist]

/-- Settles O57: each length takes its own branch, and the fault's word is MATCH's own. -/
theorem matchLengthFaults : Obligations.MatchLengthFaults := fun _ hf =>
  ⟨fun h => exec_match_empty h hf, fun h => exec_match_long h hf⟩

end Sys2Proof.Proofs
end

section
/-!
SUPPORT. The transactions of a CORE that has faulted, and fault entry as every transaction sees it: a
state that turns out faulted is a raise of the state before (spec 60_exceptions.md R152 to R155).
-/

namespace Sys2Proof.Machine

variable {s t : State}

theorem hostWrite_faulted (a : Addr) (data : Word) (hf : s.fault = true) :
    hostWrite a data s = .next s :=
  if_pos hf

/-- A read is legal, of the location at its address, or it raises a fault and returns 0 (R52, R154). -/
theorem hostRead_cases (a : Addr) (s : State) :
    (∃ l, locAddr l = a ∧ hostRead a s = (s, readLoc l s)) ∨
      ∃ c info, hostRead a s = (raiseFault c info s, 0#32) := by
  by_cases ha : aligned a = true
  · cases hl : locate a with
    | some l =>
      obtain rfl := locAddr_of_locate ha hl
      exact .inl ⟨l, rfl, hostRead_locAddr l s⟩
    | none =>
      rw [hostRead, if_pos ha, hl]
      exact .inr ⟨_, _, rfl⟩
  · rw [hostRead, if_neg ha]
    exact .inr ⟨_, _, rfl⟩

/-- The fault flag is kept, or the second state is a raise of the first and nothing else. -/
def FaultPrecise (s t : State) : Prop :=
  t.fault = s.fault ∨ ∃ c info, t = raiseFault c info s

theorem CommandEffect.faultPrecise (h : CommandEffect s t) : FaultPrecise s t := by
  cases h with
  | score v _ | bitmap v | accs u v | index v _ => exact .inl rfl
  | acc g v => exact .inl (setAccOf_fault g v s)
  | fault c info => exact .inr ⟨c, info, rfl⟩

theorem StoreEffect.faultPrecise {l : Loc} {data : Word} (h : StoreEffect l data s t) :
    FaultPrecise s t := by
  cases h with
  | fg | bg | target | palLen | mask v | array _ _ => exact .inl rfl
  | acc g v => exact .inl (setAccOf_fault g v s)
  | fault c info => exact .inr ⟨c, info, rfl⟩

theorem WriteEffect.faultPrecise {a : Addr} {data : Word} (h : WriteEffect a data s t) :
    FaultPrecise s t := by
  cases h with
  | ignored _ => exact .inl rfl
  | fault hf c info => exact .inr ⟨c, info, (raiseFault_clear c info hf).symm⟩
  | store _ _ _ _ hstore => exact hstore.faultPrecise
  | command _ _ _ hcommand => exact hcommand.faultPrecise

/-- Where the flag rises, the second state is the first with a fault entered. -/
theorem FaultPrecise.exists_enterFault (h : FaultPrecise s t) (hs : s.fault = false)
    (ht : t.fault = true) : ∃ c info, t = enterFault c info s := by
  rcases h with hsame | ⟨c, info, rfl⟩
  · rw [ht, hs] at hsame
    cases hsame
  · exact ⟨c, info, raiseFault_clear c info hs⟩

end Sys2Proof.Machine
end

section
/-!
The statements of the faults (spec 60_exceptions.md R150 to R160).
-/

namespace Sys2Proof.Proofs

open Sys2Proof Sys2Proof.Machine

/-- Settles O23: a write is turned away at once, and a raise finds the first fault already there. -/
theorem faultedStateHolds : Obligations.FaultedStateHolds := by
  intro s hf
  refine ⟨fun a d => hostWrite_faulted a d hf, fun l => hostRead_locAddr l s, fun a ha => ?illegal,
    fun ⟨_, hclear⟩ => Bool.noConfusion (hf.symm.trans hclear)⟩
  case illegal =>
    rcases hostRead_cases a s with ⟨l, rfl, -⟩ | ⟨c, info, h⟩
    · rcases ha with hmisaligned | hunmapped
      · exact absurd ((aligned_iff _).1 (aligned_locAddr l)) hmisaligned
      · exact absurd rfl (hunmapped l)
    · rw [h, raiseFault_faulted c info hf]

/-- Settles O24, by the cases of what a step can do: with a fault entered only the host's side moves. -/
theorem onlyResetLeavesFault : Obligations.OnlyResetLeavesFault := by
  intro s t hf hstep hreset
  cases step_effect hstep with
  | idle _ => rfl
  | reset rest h => exact absurd h (hreset rest)
  | readKeeps a rest _ w => rfl
  | readFaults a rest _ w c info =>
    rw [raiseFault_faulted (s := s.setScript rest) c info hf]
    rfl
  | write a d rest _ _ ht =>
    cases (hostWrite_faulted (s := s.setScript rest) a d hf).symm.trans ht
    rfl

/-- Settles O25: of what a step can do only a raise sets the flag, and it is the raise R154 lists. -/
theorem faultingTransactionIsPrecise : Obligations.FaultingTransactionIsPrecise := by
  intro s t hs hstep ht
  cases step_effect hstep with
  | idle _ => exact Bool.noConfusion (hs.symm.trans ht)
  | reset rest _ => cases ht
  | readKeeps a rest _ w => exact Bool.noConfusion (hs.symm.trans ht)
  | readFaults a rest _ w c info =>
    refine ⟨c, info, ?_⟩
    rw [raiseFault_clear (s := s.setScript rest) c info hs]
    rfl
  | write a d rest _ _ hwrite =>
    obtain ⟨c, info, rfl⟩ :=
      (writeEffect_of_hostWrite hwrite).faultPrecise.exists_enterFault hs ht
    exact ⟨c, info, rfl⟩

/-- Settles O22: the codes are 1 to 8, and a legal read would leave the flag at 0. -/
theorem faultEntryIsExact : Obligations.FaultEntryIsExact := by
  intro s c info hf
  refine ⟨raiseFault_clear c info hf, raiseFault_fault c info s, ?code, causeCode_le c,
    fun a hfault => ?read⟩
  case code => cases c <;> decide
  case read =>
    rcases hostRead_cases a s with ⟨l, -, h⟩ | ⟨c', info', h⟩
    · rw [h] at hfault
      exact Bool.noConfusion (hf.symm.trans hfault)
    · rw [h]

/-- Settles O26: misalignment faults whatever the address maps to, and the decoder turns away a word
with a reserved bit before DIVIDE sees its divisor. -/
theorem faultPriorityExamples : Obligations.FaultPriorityExamples := by
  intro s hf
  have hmisaligned (a : Addr) := misalignedFaults s a 1#32 hf
  obtain ⟨hillegal, -⟩ := illegalCommandFaults
  refine ⟨(hmisaligned 0x002#12 (by decide)).1, (hmisaligned 0x025#12 (by decide)).2,
    hillegal s 0x032C0004#32 hf (by decide), ?divisor⟩
  case divisor =>
    calc hostWrite 0x004#12 0x012C0004#32 s = execute (encode (.divide .acc0 300)) s :=
          hostWrite_cmd _ hf
      _ = exec (.divide .acc0 300) s := execute_of_decode (decode_encode rfl) s
      _ = .next (enterFault .divRange (encode (.divide .acc0 300)) s) :=
          exec_divide_range .acc0 (by decide) hf

end Sys2Proof.Proofs
end

section
/-!
SUPPORT. Every event completes and takes nothing but itself off the host's list (R184 to R186), and the
locations whose reads depend on no state (R39, R181).
-/

namespace Sys2Proof.Machine

/-- An event completes and leaves the host's remaining list as it is. -/
theorem perform_keeps_script (e : HostEvent) (s : State) :
    ∃ t, perform e s = .next t ∧ t.host.script = s.host.script := by
  cases e with
  | reset => exact ⟨_, rfl, rfl⟩
  | read a =>
    refine ⟨_, rfl, ?_⟩
    rw [answer_host, hostRead_host]
  | write a d =>
    obtain ⟨t, ht, -⟩ := hostWrite_effect a d s
    exact ⟨t, ht, congrArg HostSide.script ((hostBlind_hostWrite a d).host_eq ht)⟩

/-- A step completes, with the first event gone from the host's list. -/
theorem step_script_tail (s : State) :
    ∃ t, step s = .next t ∧ t.host.script = s.host.script.tail := by
  cases hs : s.host.script with
  | nil => exact ⟨s, step_of_nil hs, hs⟩
  | cons e rest =>
    rw [step_of_cons hs]
    exact perform_keeps_script e (s.setScript rest)

theorem run_succ_of_step {M : Host.Core} {s t : M.State} (h : M.step s = .next t) (k : Nat) :
    M.run (k + 1) s = M.run k t := by
  rw [Host.Core.run, h]

/-- As many steps as the list has events bring it to its end. -/
theorem run_empties_script (es : List HostEvent) {s : State} (hs : s.host.script = es) :
    ∃ t : State, Sys2Proof.core.run es.length s = .next t ∧ t.host.script = [] := by
  induction es generalizing s with
  | nil => exact ⟨s, rfl, hs⟩
  | cons e rest ih =>
    obtain ⟨u, hstep, hu⟩ := step_script_tail s
    obtain ⟨t, hrun, ht⟩ := ih (hu.trans (congrArg List.tail hs))
    exact ⟨t, (run_succ_of_step (M := Sys2Proof.core) hstep rest.length).trans hrun, ht⟩

/-- A location that gives the same word in two states is read as that word in both. -/
theorem hostRead_eq_of_readLoc_eq {l : Loc} {s t : State} (h : readLoc l t = readLoc l s) :
    hostRead (locAddr l) t = (t, (hostRead (locAddr l) s).2) := by
  rw [hostRead_locAddr, hostRead_locAddr, h]

end Sys2Proof.Machine
end

section
/-!
The statements of the completion of transactions and of the constants (spec 70_reset_and_hazards.md).
-/

namespace Sys2Proof.Proofs

open Sys2Proof Sys2Proof.Machine

/-- Settles O9: the first event is performed in the state that holds the rest of the list. -/
theorem everyTransactionCompletes : Obligations.EveryTransactionCompletes :=
  step_script_tail

/-- Settles O10, by induction on the host's list. -/
theorem runPerformsWholeList : Obligations.RunPerformsWholeList :=
  fun s => run_empties_script s.host.script rfl

/-- Settles O29: the words of `RECIP` and `ID` are read from no state, so no step can matter. -/
theorem constantsNeverChange : Obligations.ConstantsNeverChange := fun _ _ _ =>
  ⟨fun _ => hostRead_eq_of_readLoc_eq rfl, hostRead_eq_of_readLoc_eq rfl⟩

end Sys2Proof.Proofs
end
